-- ==== Sys2Proof/Word.lean ====
section
/-! DEFINITION. The word types of the block: a register, a buffer byte, an offset in the window. -/

namespace Sys2Proof

/-- A 32-bit register value or command word (00_scope.md R12, 30_encoding.md R150). -/
abbrev Word := BitVec 32

/-- One byte of a buffer (20_memory.md R104). -/
abbrev Byte := BitVec 8

/-- An offset from BASE in the 4096-byte window, 0x000 to 0xFFF (20_memory.md R101). -/
abbrev Offset := BitVec 12

end Sys2Proof
end

