-- ==== Sys2Proof/Syntax.lean ====
section
/-! DEFINITION. The 28 commands of the opcode map (30_encoding.md R153), one constructor each. -/

namespace Sys2Proof

/-- A command. Only TX_DATA, RS_ENC and RS_CHK have an operand of their own, the 4-bit ARG (R154); every other
operand is in fixed registers and buffers (R150). -/
inductive Instr where
  /-- R200 -/ | nop
  /-- R201 -/ | softReset
  /-- R202 -/ | clrCnt
  /-- R361 -/ | h15Enc
  /-- R362 -/ | h15Dec
  /-- R363 -/ | h13Enc
  /-- R364 -/ | h13Dec
  /-- R365 -/ | h16Enc
  /-- R366 -/ | h16Dec
  /-- R367 -/ | qrEnc
  /-- R368 -/ | qrDec
  /-- R369 -/ | golEnc
  /-- R370 -/ | golDec
  /-- R405 -/ | bptcEnc
  /-- R406 -/ | bptcDec
  /-- R414 -/ | embEnc
  /-- R415 -/ | embDec
  /-- R240 -/ | callStart
  /-- R241 -/ | txHdr
  /-- R242 -/ | txVoice
  /-- R243 -/ | txTerm
  /-- R244; ARG is the data type -/ | txData (dt : BitVec 4)
  /-- R300 -/ | rxBurst
  /-- R310 -/ | rxReset
  /-- R460 -/ | lcBuild
  /-- R461; ARG is the mask select -/ | rsEnc (mask : BitVec 4)
  /-- R462; ARG is the mask select -/ | rsChk (mask : BitVec 4)
  /-- R463 -/ | cs5
  deriving DecidableEq, Repr

end Sys2Proof
end

