-- ==== Sys2Proof/WellFormed.lean ====
section
/-! DEFINITION. Which commands have a legal word: the ARG ranges of 30_encoding.md R154. -/

namespace Sys2Proof

/-- ARG is in the legal range of its opcode (30_encoding.md R154): 0..11 for TX_DATA, 0..2 for RS_ENC and RS_CHK.
The commands whose ARG must be 0 carry none. -/
def Instr.wellFormed : Instr → Bool
  | .txData dt => decide (dt.toNat ≤ 11)
  | .rsEnc mask => decide (mask.toNat ≤ 2)
  | .rsChk mask => decide (mask.toNat ≤ 2)
  | .nop | .softReset | .clrCnt => true
  | .h15Enc | .h15Dec | .h13Enc | .h13Dec | .h16Enc | .h16Dec | .qrEnc | .qrDec | .golEnc | .golDec => true
  | .bptcEnc | .bptcDec | .embEnc | .embDec => true
  | .callStart | .txHdr | .txVoice | .txTerm => true
  | .rxBurst | .rxReset => true
  | .lcBuild | .cs5 => true

end Sys2Proof
end

