-- ==== Sys2Proof/Decode.lean ====
section
/-! DEFINITION. The command word: decoding, total and rejecting by name, and the encoder (30_encoding.md R150 to R155). -/

namespace Sys2Proof

/-- Why a word is not legal (30_encoding.md R151, R155). Each reason raises Error(ILLEGAL_CMD). -/
inductive DecodeError where
  /-- Bits 31:12 are not zero (R151.1). -/
  | mbzNotZero
  /-- Bits 7:0 are no opcode of the map (R151.2). -/
  | reservedOpcode
  /-- Bits 11:8 are outside the opcode's ARG range (R151.3). -/
  | argOutOfRange
  deriving DecidableEq, Repr

/-- One row of the opcode map (30_encoding.md R153). -/
structure OpcodeRow where
  /-- The value of bits 7:0. -/
  op : BitVec 8
  /-- The largest legal ARG; every smaller one is legal too. -/
  maxArg : Nat
  /-- The command that the row encodes with a given ARG. -/
  command : BitVec 4 → Instr

/-- The opcode map (30_encoding.md R153), in its order. -/
def opcodeMap : List OpcodeRow :=
  [ ⟨0x00, 0, fun _ => .nop⟩, ⟨0x01, 0, fun _ => .softReset⟩, ⟨0x02, 0, fun _ => .clrCnt⟩,
    ⟨0x10, 0, fun _ => .h15Enc⟩, ⟨0x11, 0, fun _ => .h15Dec⟩,
    ⟨0x12, 0, fun _ => .h13Enc⟩, ⟨0x13, 0, fun _ => .h13Dec⟩,
    ⟨0x14, 0, fun _ => .h16Enc⟩, ⟨0x15, 0, fun _ => .h16Dec⟩,
    ⟨0x16, 0, fun _ => .qrEnc⟩, ⟨0x17, 0, fun _ => .qrDec⟩,
    ⟨0x18, 0, fun _ => .golEnc⟩, ⟨0x19, 0, fun _ => .golDec⟩,
    ⟨0x20, 0, fun _ => .bptcEnc⟩, ⟨0x21, 0, fun _ => .bptcDec⟩,
    ⟨0x22, 0, fun _ => .embEnc⟩, ⟨0x23, 0, fun _ => .embDec⟩,
    ⟨0x30, 0, fun _ => .callStart⟩, ⟨0x31, 0, fun _ => .txHdr⟩, ⟨0x32, 0, fun _ => .txVoice⟩,
    ⟨0x33, 0, fun _ => .txTerm⟩, ⟨0x34, 11, fun dt => .txData dt⟩,
    ⟨0x40, 0, fun _ => .rxBurst⟩, ⟨0x41, 0, fun _ => .rxReset⟩,
    ⟨0x50, 0, fun _ => .lcBuild⟩, ⟨0x51, 2, fun mask => .rsEnc mask⟩, ⟨0x52, 2, fun mask => .rsChk mask⟩,
    ⟨0x53, 0, fun _ => .cs5⟩ ]

/-- The command a word written to CMD encodes, or why it is not legal (30_encoding.md R151). -/
def decode (v : Word) : Except DecodeError Instr :=
  let op := v.extractLsb' 0 8
  let arg := v.extractLsb' 8 4
  if v.extractLsb' 12 20 ≠ 0 then .error .mbzNotZero
  else
    match opcodeMap.find? (fun row => row.op == op) with
    | none => .error .reservedOpcode
    | some row => if arg.toNat ≤ row.maxArg then .ok (row.command arg) else .error .argOutOfRange

/-- OP of a command's word (30_encoding.md R153). -/
def opcodeOf : Instr → BitVec 8
  | .nop => 0x00 | .softReset => 0x01 | .clrCnt => 0x02
  | .h15Enc => 0x10 | .h15Dec => 0x11 | .h13Enc => 0x12 | .h13Dec => 0x13 | .h16Enc => 0x14 | .h16Dec => 0x15
  | .qrEnc => 0x16 | .qrDec => 0x17 | .golEnc => 0x18 | .golDec => 0x19
  | .bptcEnc => 0x20 | .bptcDec => 0x21 | .embEnc => 0x22 | .embDec => 0x23
  | .callStart => 0x30 | .txHdr => 0x31 | .txVoice => 0x32 | .txTerm => 0x33 | .txData _ => 0x34
  | .rxBurst => 0x40 | .rxReset => 0x41
  | .lcBuild => 0x50 | .rsEnc _ => 0x51 | .rsChk _ => 0x52 | .cs5 => 0x53

/-- ARG of a command's word (30_encoding.md R154). -/
def argOf : Instr → BitVec 4
  | .txData dt => dt
  | .rsEnc mask => mask
  | .rsChk mask => mask
  | .nop | .softReset | .clrCnt => 0
  | .h15Enc | .h15Dec | .h13Enc | .h13Dec | .h16Enc | .h16Dec | .qrEnc | .qrDec | .golEnc | .golDec => 0
  | .bptcEnc | .bptcDec | .embEnc | .embDec => 0
  | .callStart | .txHdr | .txVoice | .txTerm => 0
  | .rxBurst | .rxReset => 0
  | .lcBuild | .cs5 => 0

/-- The word of a command: `(ARG << 8) | OP`, with bits 31:12 zero (30_encoding.md R150). -/
def encode (i : Instr) : Word := 0#20 ++ argOf i ++ opcodeOf i

/-- The command that the decoder reads from the bits `w` of a word of which `nbits` bits are given; the bits above
are zero. A command word is one 32-bit register value, so it has no layout in bytes (20_memory.md R105). -/
def decodeTableWord (nbits w : Nat) : Option Instr :=
  match decode (BitVec.ofNat 32 (w % 2 ^ nbits)) with
  | .ok i => some i
  | .error _ => none

end Sys2Proof
end

