-- ==== Sys2Proof/Machine/Bits.lean ====
section
/-! DEFINITION. Bit strings (00_scope.md R11, 20_memory.md R104). A bit string S of length n is a `BitVec n` whose
most significant bit is S[0]: S[i] is `S.getMsbD i`, A ‖ B is `A ++ B`, int(S) is `S.toNat`, bits_n(v) is
`BitVec.ofNat n v` and zeros(n) is `0#n`. -/

namespace Sys2Proof.Machine

/-- The bit string f(0), f(1), ..., f(n-1). -/
def mkBits : (n : Nat) → (Nat → Bool) → BitVec n
  | 0, _ => 0#0
  | n + 1, f => (mkBits n f).concat (f n)

/-- The substring S[a..a+n-1] (00_scope.md R11). -/
def bits {w : Nat} (s : BitVec w) (a n : Nat) : BitVec n :=
  s.extractLsb' (w - (a + n)) n

/-- S with the bits a..a+n-1 replaced by v. -/
def setBits {w n : Nat} (s : BitVec w) (a : Nat) (v : BitVec n) : BitVec w :=
  mkBits w fun i => if a ≤ i ∧ i < a + n then v.getMsbD (i - a) else s.getMsbD i

/-- S with bit i inverted. -/
def flipBit {w : Nat} (s : BitVec w) (i : Nat) : BitVec w :=
  s ^^^ BitVec.twoPow w (w - 1 - i)

/-- S written to the start of a string of n bits that is zero elsewhere (10_state.md R65). -/
def padTo {w : Nat} (n : Nat) (s : BitVec w) : BitVec n :=
  s.setWidth n <<< (n - w)

/-- Byte k of a bit string (20_memory.md R104). -/
def byteAt {w : Nat} (s : BitVec w) (k : Nat) : BitVec 8 :=
  bits s (8 * k) 8

/-- The exclusive-or of the bits of S at the listed indices (00_scope.md R13). -/
def parityOf {w : Nat} (s : BitVec w) : List Nat → Bool
  | [] => false
  | i :: is => s.getMsbD i ^^ parityOf s is

/-- The number of ones among the k least significant bits. -/
def onesBelow {w : Nat} (s : BitVec w) : Nat → Nat
  | 0 => 0
  | k + 1 => onesBelow s k + (s.getLsbD k).toNat

/-- wt(S), the number of ones (00_scope.md R11). -/
def wt {w : Nat} (s : BitVec w) : Nat := onesBelow s w

/-- dist(S, T) = wt(S ^ T) (00_scope.md R11). -/
def dist {w : Nat} (s t : BitVec w) : Nat := wt (s ^^^ t)

/-- The n bits S[p_0], S[p_1], ... at the listed positions, in the order of the list. -/
def gather {w : Nat} (n : Nat) (positions : List Nat) (s : BitVec w) : BitVec n :=
  mkBits n fun i => s.getMsbD (positions.getD i 0)

/-- The string of length w whose bit at the i-th listed position is S[i] and whose other bits are zero. -/
def scatter {n : Nat} (w : Nat) (positions : List Nat) (s : BitVec n) : BitVec w :=
  mkBits w fun p =>
    match positions.idxOf? p with
    | some i => s.getMsbD i
    | none => false

/-- One step of the division of a binary polynomial by one of degree d: if the coefficient of x^(d+k) is 1,
the divisor times x^k is taken away. -/
def gf2DivStep (divisor d k dividend : Nat) : Nat :=
  if dividend.testBit (d + k) then dividend ^^^ (divisor <<< k) else dividend

/-- The remainder of a binary polynomial with k coefficients above x^(d-1), by a polynomial of degree d (00_scope.md R13). -/
def gf2Mod (divisor d : Nat) : Nat → Nat → Nat
  | 0, dividend => dividend
  | k + 1, dividend => gf2Mod divisor d k (gf2DivStep divisor d k dividend)

end Sys2Proof.Machine
end

