-- ==== Sys2Proof/Machine/State.lean ====
section
/-! DEFINITION. The state of the block as plain data (10_state.md), its reset values, and the reasons a step can stop. -/

namespace Sys2Proof.Machine

/-- CTRL.SYNC_ORIGIN: which sync pattern family transmit commands use (10_state.md R53). The field never holds 3. -/
inductive SyncOrigin where
  /-- 0: base-station sourced. -/ | bs
  /-- 1: mobile-station sourced. -/ | ms
  /-- 2: TDMA direct mode; the timeslot picks the pattern. -/ | direct
  deriving DecidableEq, Repr

/-- `CTRL` (10_state.md R53). -/
structure Ctrl where
  /-- bits 1:0 -/ syncOrigin : SyncOrigin
  /-- bits 6:4, legal values 0..4 -/ syncTol : BitVec 3
  /-- bit 8 -/ ieDone : Bool
  /-- bit 9 -/ ieErr : Bool
  /-- bit 10 -/ ieLc : Bool
  deriving DecidableEq, Repr

/-- `STATUS` (10_state.md R54). -/
structure Status where
  /-- bit 0 -/ done : Bool
  /-- bit 1 -/ err : Bool
  /-- bit 2 -/ lcEv : Bool
  /-- bits 6:4 -/ errCode : BitVec 3
  deriving DecidableEq, Repr

/-- `RESULT` (10_state.md R56). -/
structure Result where
  /-- bit 0 -/ corr : Bool
  /-- bit 1 -/ uncorr : Bool
  /-- bit 2 -/ lc : Bool
  /-- bit 3 -/ pl : Bool
  /-- bits 7:4 -/ rxClass : BitVec 4
  /-- bits 15:8 -/ ncorr : BitVec 8
  deriving DecidableEq, Repr

/-- A call context: the four registers CTX_CFG, CTX_DST, CTX_SRC and CTX_OPT (10_state.md R57), or the four
active ones of the same layout (R58). -/
structure Context where
  /-- CTX_CFG bits 3:0, the colour code -/ cc : BitVec 4
  /-- CTX_CFG bit 8, the timeslot -/ ts : Bool
  /-- CTX_CFG bit 16, private call -/ priv : Bool
  /-- CTX_DST bits 23:0 -/ dst : BitVec 24
  /-- CTX_SRC bits 23:0 -/ src : BitVec 24
  /-- CTX_OPT bits 7:0 -/ fid : BitVec 8
  /-- CTX_OPT bits 15:8 -/ so : BitVec 8
  deriving DecidableEq, Repr

/-- `TXSTATE` (10_state.md R60). -/
structure TxState where
  /-- bits 2:0: 0..5 for positions A..F -/ pos : BitVec 3
  /-- bit 8 -/ active : Bool
  deriving DecidableEq, Repr

/-- `RXSTATE` (10_state.md R61). -/
structure RxState where
  /-- bits 2:0: 0..5 for A..F, 7 for UNSYNC -/ pos : BitVec 3
  /-- bit 3 -/ abort : Bool
  /-- bits 7:4 -/ fragMask : BitVec 4
  /-- bits 11:8 -/ cc : BitVec 4
  /-- bit 12 -/ pi : Bool
  /-- bits 14:13 -/ lcss : BitVec 2
  /-- bits 19:16 -/ dt : BitVec 4
  /-- bits 22:20 -/ syncId : BitVec 3
  deriving DecidableEq, Repr

/-- The ten byte buffers of the window (10_state.md R64). -/
inductive Buf where
  | dataIn | dataOut | burstIn | burstOut | voiceIn | voiceOut | lcAct | rxLc | embTx | rxFrag
  deriving DecidableEq, Repr

/-- The 17 registers of the window (20_memory.md R102). -/
inductive Reg where
  | id | ctrl | status | cmd | ctxCfg | ctxDst | ctxSrc | ctxOpt | result | txState | rxState
  | fecFailCnt | abortCnt | actCfg | actDst | actSrc | actOpt
  deriving DecidableEq, Repr

/-- The buffer bytes of the window: (offset, byte) pairs, offsets strictly rising, no byte 0x00 (an offset not
listed reads as 0x00, the value every buffer byte has after reset, 10_state.md R64, R68). -/
abbrev Mem := List Host.Cell

/-- One host bus transaction (20_memory.md R110 to R113). Its width may be anything; only 4 and 1 are admitted. -/
inductive Txn where
  /-- MemRead(BASE + offset, width) -/
  | read (offset : Offset) (width : Nat)
  /-- MemWrite(BASE + offset, width, value) -/
  | write (offset : Offset) (width : Nat) (value : Word)
  deriving DecidableEq, Repr

/-- What the outside world does to the block. -/
inductive HostEvent where
  /-- The host sends one transaction (20_memory.md R100). -/
  | txn (t : Txn)
  /-- The platform drives the reset input to a level; `true` is asserted (70_reset_and_hazards.md R551). -/
  | rst (asserted : Bool)
  deriving DecidableEq, Repr

/-- The state of the block (10_state.md R50), its reset input, and the host's side of the bus. -/
structure State where
  /-- CTRL, R53 -/ ctrl : Ctrl
  /-- STATUS, R54 -/ status : Status
  /-- RESULT, R56 -/ result : Result
  /-- the shadow call context CTX_*, R57 -/ ctx : Context
  /-- the active call context ACT_*, R58 -/ act : Context
  /-- TXSTATE, R60 -/ tx : TxState
  /-- RXSTATE, R61 -/ rx : RxState
  /-- FEC_FAIL_CNT, R63 -/ fecFailCnt : Word
  /-- ABORT_CNT, R63 -/ abortCnt : Word
  /-- the ten buffers, R64 -/ mem : Mem
  /-- the level of the reset input, 70_reset_and_hazards.md R551 -/ rst : Bool
  /-- the model's own: the host events not yet delivered, oldest first (log 1) -/ inputs : List HostEvent
  /-- the model's own: what the last event gave back to the host, the value of a read (log 2) -/
  response : Option Word
  deriving DecidableEq, Repr

/-- Reasons to stop with a fault. There are none: every error of the block is recorded in STATUS and the block goes
on (60_exceptions.md R500 to R505), so no step ends in a fault (log 8). -/
inductive Fault
  deriving DecidableEq, Repr

/-- Reasons to refuse. -/
inductive Refusal where
  /-- Raised only by an arm of `exec` whose command has no meaning yet; no arm is such, so no step raises it.
  Safe: the model would stop where the block goes on. -/
  | notModelled (mnemonic : String)
  deriving DecidableEq, Repr

/-- The context registers after reset (10_state.md R68). -/
def Context.reset : Context :=
  { cc := 0, ts := false, priv := false, dst := 0, src := 0, fid := 0, so := 0 }

/-- The block right after reset (10_state.md R68, 70_reset_and_hazards.md R550), with `rst` deasserted (R551), no
host event waiting and nothing read back. -/
def State.reset : State :=
  { ctrl := { syncOrigin := .bs, syncTol := 0, ieDone := false, ieErr := false, ieLc := false }
    status := { done := false, err := false, lcEv := false, errCode := 0 }
    result := { corr := false, uncorr := false, lc := false, pl := false, rxClass := 0, ncorr := 0 }
    ctx := Context.reset
    act := Context.reset
    tx := { pos := 0, active := false }
    rx := { pos := 7, abort := false, fragMask := 0, cc := 0, pi := false, lcss := 0, dt := 0, syncId := 0 }
    fecFailCnt := 0
    abortCnt := 0
    mem := []
    rst := false
    inputs := []
    response := none }

end Sys2Proof.Machine
end

