-- ==== Sys2Proof/Machine/Flags.lean ====
section
/-! DEFINITION. The outcome of a decoder (00_scope.md R15) and what it does to RESULT (10_state.md R56). -/

namespace Sys2Proof.Machine

/-- The outcome of a decoder (00_scope.md R15). -/
inductive DecOutcome where
  /-- No error found. -/
  | ok
  /-- n ≥ 1 bits changed. -/
  | corrected (n : Nat)
  /-- Uncorrectable. -/
  | fail
  deriving DecidableEq, Repr

/-- OK if no bit was changed, CORRECTED(n) if n were. -/
def outcomeOfChanges (n : Nat) : DecOutcome := if n = 0 then .ok else .corrected n

/-- `sat(x) = min(x, 255)` (42_burst_rx.md R302). -/
def sat255 (n : Nat) : BitVec 8 := BitVec.ofNat 8 (min n 255)

/-- RESULT after one decoder's outcome (43_fec_block.md R350, 42_burst_rx.md R300): CORRECTED(n) sets CORR and adds n
to NCORR, saturating at 255; FAIL sets UNCORR. -/
def recordOutcome (o : DecOutcome) (r : Result) : Result :=
  match o with
  | .ok => r
  | .corrected n => { r with corr := true, ncorr := sat255 (r.ncorr.toNat + n) }
  | .fail => { r with uncorr := true }

end Sys2Proof.Machine
end

