-- ==== Sys2Proof/Machine/BlockCodes.lean ====
section
/-! DEFINITION. The block codes (43_fec_block.md R351 to R360): Hamming(15,11), (13,9) and (16,11), QR(16,7,6), Golay(20,8). -/

namespace Sys2Proof.Machine

/-! ## Hamming codes -/

/-- The parity equations of Hamming(15,11,3): the data bits of p0, p1, p2, p3 (43_fec_block.md R351). -/
def h15Eqs : List (List Nat) :=
  [[0, 1, 2, 3, 5, 7, 8], [1, 2, 3, 4, 6, 8, 9], [2, 3, 4, 5, 7, 9, 10], [0, 1, 2, 4, 6, 7, 10]]

/-- The parity equations of Hamming(13,9,3) (43_fec_block.md R353). -/
def h13Eqs : List (List Nat) :=
  [[0, 1, 3, 5, 6], [0, 1, 2, 4, 6, 7], [0, 1, 2, 3, 5, 7, 8], [0, 2, 4, 5, 8]]

/-- The parity equations of Hamming(16,11,4): those of Hamming(15,11,3) and p4 (43_fec_block.md R355). -/
def h16Eqs : List (List Nat) := h15Eqs ++ [[0, 2, 5, 6, 8, 9, 10]]

/-- T15: the bit that each nonzero syndrome names (43_fec_block.md R352). -/
def h15Table : List (Nat × Nat) :=
  [(0x1, 11), (0x2, 12), (0x3, 8), (0x4, 13), (0x5, 5), (0x6, 9), (0x7, 3), (0x8, 14), (0x9, 0), (0xA, 6), (0xB, 1),
    (0xC, 10), (0xD, 7), (0xE, 4), (0xF, 2)]

/-- T13 (43_fec_block.md R354); 0x9 and 0xB name no bit. -/
def h13Table : List (Nat × Nat) :=
  [(0x1, 9), (0x2, 10), (0x3, 6), (0x4, 11), (0x5, 3), (0x6, 7), (0x7, 1), (0x8, 12), (0xA, 4), (0xC, 8), (0xD, 5),
    (0xE, 2), (0xF, 0)]

/-- T16 (43_fec_block.md R356); the nonzero syndromes of even weight name no bit. -/
def h16Table : List (Nat × Nat) :=
  [(0x01, 11), (0x02, 12), (0x04, 13), (0x07, 3), (0x08, 14), (0x0B, 1), (0x0D, 7), (0x0E, 4), (0x10, 15), (0x13, 8),
    (0x15, 5), (0x16, 9), (0x19, 0), (0x1A, 6), (0x1C, 10), (0x1F, 2)]

/-- The parity bits p0, p1, ... of the data bits at the start of a string. -/
def hamParity {w : Nat} (r : Nat) (eqs : List (List Nat)) (d : BitVec w) : BitVec r :=
  mkBits r fun j => parityOf d (eqs.getD j [])

/-- The syndrome of a codeword whose parity bits stand from index k on (43_fec_block.md R352): bit j is equation j
of the data exclusive-or its parity bit. -/
def hamSyndrome {w : Nat} (c : BitVec w) : Nat → List (List Nat) → Nat
  | _, [] => 0
  | k, eq :: eqs => (parityOf c eq ^^ c.getMsbD k).toNat + 2 * hamSyndrome c (k + 1) eqs

/-- The generic decoder on a whole codeword, correcting in place (43_fec_block.md R352); on FAIL the word is as received. -/
def hamCorrect {w : Nat} (k : Nat) (eqs : List (List Nat)) (table : List (Nat × Nat)) (c : BitVec w) :
    BitVec w × DecOutcome :=
  if hamSyndrome c k eqs = 0 then (c, .ok)
  else
    match table.lookup (hamSyndrome c k eqs) with
    | some i => (flipBit c i, .corrected 1)
    | none => (c, .fail)

/-- The data bits of a corrected word, zeros on FAIL (43_fec_block.md R352). -/
def hamData {w : Nat} (k : Nat) (r : BitVec w × DecOutcome) : BitVec k × DecOutcome :=
  match r.2 with
  | .fail => (0, .fail)
  | o => (bits r.1 0 k, o)

/-- The Hamming(15,11,3) encoder (43_fec_block.md R351). -/
def h15Encode (d : BitVec 11) : BitVec 15 := d ++ hamParity 4 h15Eqs d

/-- The Hamming(13,9,3) encoder (43_fec_block.md R353). -/
def h13Encode (d : BitVec 9) : BitVec 13 := d ++ hamParity 4 h13Eqs d

/-- The Hamming(16,11,4) encoder (43_fec_block.md R355). -/
def h16Encode (d : BitVec 11) : BitVec 16 := d ++ hamParity 5 h16Eqs d

/-- The Hamming(15,11,3) decoder (43_fec_block.md R352). -/
def h15Decode (c : BitVec 15) : BitVec 11 × DecOutcome := hamData 11 (hamCorrect 11 h15Eqs h15Table c)

/-- The Hamming(13,9,3) decoder (43_fec_block.md R354). -/
def h13Decode (c : BitVec 13) : BitVec 9 × DecOutcome := hamData 9 (hamCorrect 9 h13Eqs h13Table c)

/-- The Hamming(16,11,4) decoder (43_fec_block.md R356). -/
def h16Decode (c : BitVec 16) : BitVec 11 × DecOutcome := hamData 11 (hamCorrect 11 h16Eqs h16Table c)

/-! ## Quadratic-residue and Golay codes -/

/-- A word and its overall even parity bit (43_fec_block.md R357, R359). -/
def appendParity {w : Nat} (c : BitVec w) : BitVec (w + 1) := c.concat (decide (wt c % 2 = 1))

/-- The cyclic codeword of QR(16,7,6) before its parity bit: G_QR = 0x139, degree 8 (43_fec_block.md R357). -/
def qrCyclic (v : BitVec 7) : BitVec 15 :=
  BitVec.ofNat 15 ((v.toNat <<< 8) ||| gf2Mod 0x139 8 7 (v.toNat <<< 8))

/-- `qr_enc(v)` (43_fec_block.md R357). -/
def qrEncode (v : BitVec 7) : BitVec 16 := appendParity (qrCyclic v)

/-- The cyclic codeword of Golay(20,8) before its parity bit: G_GOL = 0xC75, degree 11 (43_fec_block.md R359). -/
def golayCyclic (v : BitVec 8) : BitVec 19 :=
  BitVec.ofNat 19 ((v.toNat <<< 11) ||| gf2Mod 0xC75 11 8 (v.toNat <<< 11))

/-- `golay_enc(v)` (43_fec_block.md R359). -/
def golayEncode (v : BitVec 8) : BitVec 20 := appendParity (golayCyclic v)

/-- Bounded-distance decoding (43_fec_block.md R358, R360): the data value whose codeword is within `radius` of the
word, unique because the code's distance is larger than twice the radius; FAIL if there is none. -/
def nearestWithin {n k : Nat} (enc : BitVec k → BitVec n) (radius : Nat) (w : BitVec n) : BitVec k × DecOutcome :=
  match (List.range (2 ^ k)).find? fun v => decide (dist w (enc (BitVec.ofNat k v)) ≤ radius) with
  | some v => (BitVec.ofNat k v, outcomeOfChanges (dist w (enc (BitVec.ofNat k v))))
  | none => (0, .fail)

/-- `qr_dec(w)`, radius 2 (43_fec_block.md R358). -/
def qrDecode (w : BitVec 16) : BitVec 7 × DecOutcome := nearestWithin qrEncode 2 w

/-- `golay_dec(w)`, radius 3 (43_fec_block.md R360). -/
def golayDecode (w : BitVec 20) : BitVec 8 × DecOutcome := nearestWithin golayEncode 3 w

end Sys2Proof.Machine
end

