-- ==== Sys2Proof/Machine/Registers.lean ====
section
/-! DEFINITION. The 32-bit words of the registers (10_state.md R51 to R63), what a write stores in them
(20_memory.md R111), and the outputs derived from them. Every RES bit reads 0 (R52). -/

namespace Sys2Proof.Machine

/-- The constant `ID`: "DMR" in bits 23:0 and spec version 1 in bits 31:24 (10_state.md R51). -/
def idWord : Word := 0x01444D52

/-- The value of CTRL.SYNC_ORIGIN (10_state.md R53). -/
def syncOriginCode : SyncOrigin → BitVec 2
  | .bs => 0
  | .ms => 1
  | .direct => 2

/-- CTRL.SYNC_ORIGIN after a write of v[1:0]: 3 leaves the field unchanged (10_state.md R53, WARL). -/
def writeSyncOrigin (old : SyncOrigin) (v : BitVec 2) : SyncOrigin :=
  if v = 0 then .bs else if v = 1 then .ms else if v = 2 then .direct else old

/-- CTRL.SYNC_TOL after a write of v[6:4]: min(v, 4) (10_state.md R53, WARL). -/
def writeSyncTol (v : BitVec 3) : BitVec 3 :=
  if v.toNat ≤ 4 then v else 4

/-- The word of CTRL (10_state.md R53). -/
def ctrlWord (c : Ctrl) : Word :=
  0#21 ++ BitVec.ofBool c.ieLc ++ BitVec.ofBool c.ieErr ++ BitVec.ofBool c.ieDone ++ 0#1 ++ c.syncTol ++ 0#2
    ++ syncOriginCode c.syncOrigin

/-- CTRL after a write of v (20_memory.md R111). -/
def writeCtrl (c : Ctrl) (v : Word) : Ctrl :=
  { syncOrigin := writeSyncOrigin c.syncOrigin (v.extractLsb' 0 2)
    syncTol := writeSyncTol (v.extractLsb' 4 3)
    ieDone := v.getLsbD 8
    ieErr := v.getLsbD 9
    ieLc := v.getLsbD 10 }

/-- The word of STATUS (10_state.md R54). -/
def statusWord (s : Status) : Word :=
  0#25 ++ s.errCode ++ 0#1 ++ BitVec.ofBool s.lcEv ++ BitVec.ofBool s.err ++ BitVec.ofBool s.done

/-- The word of RESULT (10_state.md R56). -/
def resultWord (r : Result) : Word :=
  0#16 ++ r.ncorr ++ r.rxClass ++ BitVec.ofBool r.pl ++ BitVec.ofBool r.lc ++ BitVec.ofBool r.uncorr
    ++ BitVec.ofBool r.corr

/-- RESULT = 0 (30_encoding.md R152). -/
def clearedResult : Result :=
  { corr := false, uncorr := false, lc := false, pl := false, rxClass := 0, ncorr := 0 }

/-- The word of CTX_CFG or ACT_CFG (10_state.md R57). -/
def cfgWord (c : Context) : Word :=
  0#15 ++ BitVec.ofBool c.priv ++ 0#7 ++ BitVec.ofBool c.ts ++ 0#4 ++ c.cc

/-- The word of CTX_DST or ACT_DST (10_state.md R57). -/
def dstWord (c : Context) : Word := 0#8 ++ c.dst

/-- The word of CTX_SRC or ACT_SRC (10_state.md R57). -/
def srcWord (c : Context) : Word := 0#8 ++ c.src

/-- The word of CTX_OPT or ACT_OPT (10_state.md R57). -/
def optWord (c : Context) : Word := 0#16 ++ c.so ++ c.fid

/-- The context after a write of v to CTX_CFG (20_memory.md R111). -/
def writeCfg (c : Context) (v : Word) : Context :=
  { c with cc := v.extractLsb' 0 4, ts := v.getLsbD 8, priv := v.getLsbD 16 }

/-- The context after a write of v to CTX_DST (20_memory.md R111). -/
def writeDst (c : Context) (v : Word) : Context := { c with dst := v.extractLsb' 0 24 }

/-- The context after a write of v to CTX_SRC (20_memory.md R111). -/
def writeSrc (c : Context) (v : Word) : Context := { c with src := v.extractLsb' 0 24 }

/-- The context after a write of v to CTX_OPT (20_memory.md R111). -/
def writeOpt (c : Context) (v : Word) : Context :=
  { c with fid := v.extractLsb' 0 8, so := v.extractLsb' 8 8 }

/-- A context is valid iff DST ≠ 0 and SRC ≠ 0 (10_state.md R67). -/
def validContext (c : Context) : Bool := c.dst != 0 && c.src != 0

/-- The word of TXSTATE (10_state.md R60). -/
def txStateWord (t : TxState) : Word := 0#23 ++ BitVec.ofBool t.active ++ 0#5 ++ t.pos

/-- The word of RXSTATE (10_state.md R61). -/
def rxStateWord (r : RxState) : Word :=
  0#9 ++ r.syncId ++ r.dt ++ 0#1 ++ r.lcss ++ BitVec.ofBool r.pi ++ r.cc ++ r.fragMask ++ BitVec.ofBool r.abort
    ++ r.pos

/-- The level of the interrupt output IRQ (10_state.md R66): a function of STATUS and CTRL at every instant. -/
def irq (s : State) : Bool :=
  (s.status.done && s.ctrl.ieDone) || (s.status.err && s.ctrl.ieErr) || (s.status.lcEv && s.ctrl.ieLc)

/-- The offset of a register (20_memory.md R102). -/
def regOffset : Reg → Offset
  | .id => 0x000 | .ctrl => 0x004 | .status => 0x008 | .cmd => 0x00C
  | .ctxCfg => 0x010 | .ctxDst => 0x014 | .ctxSrc => 0x018 | .ctxOpt => 0x01C
  | .result => 0x020 | .txState => 0x024 | .rxState => 0x028 | .fecFailCnt => 0x02C | .abortCnt => 0x030
  | .actCfg => 0x034 | .actDst => 0x038 | .actSrc => 0x03C | .actOpt => 0x040

/-- The 17 registers (20_memory.md R102). -/
def allRegs : List Reg :=
  [.id, .ctrl, .status, .cmd, .ctxCfg, .ctxDst, .ctxSrc, .ctxOpt, .result, .txState, .rxState,
    .fecFailCnt, .abortCnt, .actCfg, .actDst, .actSrc, .actOpt]

/-- `reg_at(a)`: the register at a register offset (20_memory.md R103). -/
def regAt (a : Offset) : Option Reg := allRegs.find? fun r => regOffset r == a

/-- The value a register read returns (20_memory.md R110); CMD holds no state and reads 0 (10_state.md R55). -/
def readReg (s : State) : Reg → Word
  | .id => idWord
  | .ctrl => ctrlWord s.ctrl
  | .status => statusWord s.status
  | .cmd => 0
  | .ctxCfg => cfgWord s.ctx
  | .ctxDst => dstWord s.ctx
  | .ctxSrc => srcWord s.ctx
  | .ctxOpt => optWord s.ctx
  | .result => resultWord s.result
  | .txState => txStateWord s.tx
  | .rxState => rxStateWord s.rx
  | .fecFailCnt => s.fecFailCnt
  | .abortCnt => s.abortCnt
  | .actCfg => cfgWord s.act
  | .actDst => dstWord s.act
  | .actSrc => srcWord s.act
  | .actOpt => optWord s.act

end Sys2Proof.Machine
end

