-- ==== Sys2Proof/Machine/Ops.lean ====
section
/-! DEFINITION. The named operations over the buffers and registers: the buffer memory (20_memory.md R102 to R104),
error entry and its acknowledgement (60_exceptions.md R504, R505), reset (70_reset_and_hazards.md R550), and the
frame every command runs in (30_encoding.md R152). -/

namespace Sys2Proof.Machine

/-! ## The buffer memory -/

/-- The first offset of a buffer (20_memory.md R102). -/
def bufStart : Buf → Nat
  | .dataIn => 0x100 | .dataOut => 0x120 | .burstIn => 0x140 | .burstOut => 0x180 | .voiceIn => 0x1C0
  | .voiceOut => 0x1E0 | .lcAct => 0x200 | .rxLc => 0x210 | .embTx => 0x220 | .rxFrag => 0x230

/-- The length of a buffer in bytes (10_state.md R64). -/
def bufLen : Buf → Nat
  | .dataIn => 32 | .dataOut => 32 | .burstIn => 33 | .burstOut => 33 | .voiceIn => 27
  | .voiceOut => 27 | .lcAct => 9 | .rxLc => 9 | .embTx => 16 | .rxFrag => 16

/-- The buffers the host may write (10_state.md R64: access RW). -/
def bufWritable : Buf → Bool
  | .dataIn | .burstIn | .voiceIn => true
  | .dataOut | .burstOut | .voiceOut | .lcAct | .rxLc | .embTx | .rxFrag => false

/-- The ten buffers (10_state.md R64). -/
def allBufs : List Buf :=
  [.dataIn, .dataOut, .burstIn, .burstOut, .voiceIn, .voiceOut, .lcAct, .rxLc, .embTx, .rxFrag]

/-- The offset lies inside the buffer (20_memory.md R103). -/
def inBuf (b : Buf) (a : Nat) : Bool := decide (bufStart b ≤ a ∧ a < bufStart b + bufLen b)

/-- `buf_at(a)`: the buffer that contains an offset (20_memory.md R103). -/
def bufAt (a : Nat) : Option Buf := allBufs.find? fun b => inBuf b a

/-- What an offset that the memory does not list reads as: 0x00, the value of every buffer byte after reset
(10_state.md R64, R68). -/
def unlistedByte : Byte := 0x00

/-- The byte at an offset. -/
def memRead : Mem → Nat → Byte
  | [], _ => unlistedByte
  | (k, b) :: m, a => if k = a then b else memRead m a

/-- The memory without its entry for an offset. -/
def memErase : Mem → Nat → Mem
  | [], _ => []
  | (k, b) :: m, a => if k = a then memErase m a else (k, b) :: memErase m a

/-- The memory with an entry put before the first one of a larger or equal offset. -/
def memInsert : Mem → Nat → Byte → Mem
  | [], a, v => [(a, v)]
  | (k, b) :: m, a, v => if k < a then (k, b) :: memInsert m a v else (a, v) :: (k, b) :: m

/-- The memory with the byte at an offset set. The canonical form is kept: writing what an unlisted offset reads as
leaves no entry. -/
def memWrite (m : Mem) (a : Nat) (v : Byte) : Mem :=
  if v = unlistedByte then memErase m a else memInsert (memErase m a) a v

/-- The canonical form from offset `low` up: offsets strictly rising, each inside a buffer, no byte listed that
reads as an unlisted one. -/
def memWfFrom : Nat → Mem → Bool
  | _, [] => true
  | low, (k, b) :: m => decide (low ≤ k) && (bufAt k).isSome && b != unlistedByte && memWfFrom (k + 1) m

/-- The canonical form of the buffer memory. -/
def memWf (m : Mem) : Bool := memWfFrom 0 m

/-- The n bytes from an offset on, as one number, the first byte the most significant. -/
def memReadNat (m : Mem) (start : Nat) : Nat → Nat
  | 0 => 0
  | n + 1 => memReadNat m start n * 256 + (memRead m (start + n)).toNat

/-- The memory with the first n bytes of a bit string written from an offset on. -/
def memWriteBytes {w : Nat} (m : Mem) (start : Nat) (v : BitVec w) : Nat → Mem
  | 0 => m
  | n + 1 => memWrite (memWriteBytes m start v n) (start + n) (byteAt v n)

/-- The bit string of a buffer (20_memory.md R104); `w` is eight times the buffer's length. -/
def loadBuf (w : Nat) (b : Buf) (s : State) : BitVec w :=
  BitVec.ofNat w (memReadNat s.mem (bufStart b) (bufLen b))

/-- The state with a buffer written as a whole string (10_state.md R65); `w` is eight times the buffer's length. -/
def storeBuf {w : Nat} (b : Buf) (v : BitVec w) (s : State) : State :=
  { s with mem := memWriteBytes s.mem (bufStart b) v (bufLen b) }

/-! ## Errors -/

/-- The errors (60_exceptions.md R500). -/
inductive ErrCode where
  /-- The command word is not legal. -/
  | illegalCmd
  /-- No call is active. -/
  | noCall
  /-- The shadow context is invalid. -/
  | badContext
  /-- A transaction the block does not admit. -/
  | bus
  deriving DecidableEq, Repr

/-- The value of STATUS.ERRCODE for an error (60_exceptions.md R500). -/
def errCodeValue : ErrCode → BitVec 3
  | .illegalCmd => 1
  | .noCall => 2
  | .badContext => 3
  | .bus => 4

/-- Error entry (60_exceptions.md R504): the code is recorded if ERR was 0, ERR is set, and a command error sets
DONE as well. Nothing else changes. -/
def errorEntry (code : ErrCode) (fromCommand : Bool) (s : State) : State :=
  { s with status :=
    { s.status with
      errCode := if s.status.err then s.status.errCode else errCodeValue code
      err := true
      done := s.status.done || fromCommand } }

/-- The host's W1C write of v to STATUS (20_memory.md R111), the return from an error (60_exceptions.md R505):
clearing ERR clears ERRCODE with it. -/
def acknowledge (v : Word) (s : State) : State :=
  { s with status :=
    { done := s.status.done && !v.getLsbD 0
      err := s.status.err && !v.getLsbD 1
      lcEv := s.status.lcEv && !v.getLsbD 2
      errCode := if v.getLsbD 1 then 0 else s.status.errCode } }

/-! ## Reset -/

/-- The reset of 70_reset_and_hazards.md R550: every piece of the block's state to its reset value. The reset input
and the host's side of the bus are not state of the block and stay (log 6). -/
def resetBlock (s : State) : State :=
  { State.reset with rst := s.rst, inputs := s.inputs, response := s.response }

/-! ## Commands -/

/-- `STATUS.DONE <- 1` (30_encoding.md R152). -/
def setDone (s : State) : State := { s with status := { s.status with done := true } }

/-- `RESULT <- 0` (30_encoding.md R152). -/
def clearResult (s : State) : State := { s with result := clearedResult }

/-- The execution of a command's rule (30_encoding.md R152): RESULT <- 0, then the rule, which either ends normally
and sets DONE or raises an error, which has changed nothing but RESULT (60_exceptions.md R503). -/
def runCommand (rule : State → Except ErrCode State) (s : State) : Host.Outcome State Fault Refusal :=
  match rule (clearResult s) with
  | .ok t => .next (setDone t)
  | .error code => .next (errorEntry code true (clearResult s))

end Sys2Proof.Machine
end

