-- ==== Sys2Proof/Machine/Operands.lean ====
section
/-! DEFINITION. The operands and results of the commands in DATA_IN and DATA_OUT (30_encoding.md R157, 43_fec_block.md R350). -/

namespace Sys2Proof.Machine

/-- `DATA_IN.bits[0..n-1]`; the bits past the operand are ignored (43_fec_block.md R350). -/
def dataInBits (n : Nat) (s : State) : BitVec n := bits (loadBuf 256 .dataIn s) 0 n

/-- DATA_OUT set to zero and the result written to its first bits (10_state.md R65). -/
def writeDataOut {n : Nat} (v : BitVec n) (s : State) : State := storeBuf .dataOut (padTo 256 v) s

/-- The rule of an encoder command (43_fec_block.md R350): it never fails and leaves RESULT at 0. -/
def encoderRule {k n : Nat} (enc : BitVec k → BitVec n) (s : State) : Except ErrCode State :=
  .ok (writeDataOut (enc (dataInBits k s)) s)

/-- The rule of a decoder command (43_fec_block.md R350): the data, or zeros on FAIL, and the outcome in RESULT. -/
def decoderRule {n k : Nat} (dec : BitVec n → BitVec k × DecOutcome) (s : State) : Except ErrCode State :=
  .ok { writeDataOut (dec (dataInBits n s)).1 s with result := recordOutcome (dec (dataInBits n s)).2 s.result }

end Sys2Proof.Machine
end

