-- ==== Sys2Proof/Machine/BlockFec.lean ====
section
/-! DEFINITION. The block-code commands (43_fec_block.md R361 to R370), over the conventions of R350. -/

namespace Sys2Proof.Machine

/-- H15_ENC (43_fec_block.md R361). -/
def execH15Enc (s : State) : Host.Outcome State Fault Refusal := runCommand (encoderRule h15Encode) s

/-- H15_DEC (43_fec_block.md R362). -/
def execH15Dec (s : State) : Host.Outcome State Fault Refusal := runCommand (decoderRule h15Decode) s

/-- H13_ENC (43_fec_block.md R363). -/
def execH13Enc (s : State) : Host.Outcome State Fault Refusal := runCommand (encoderRule h13Encode) s

/-- H13_DEC (43_fec_block.md R364). -/
def execH13Dec (s : State) : Host.Outcome State Fault Refusal := runCommand (decoderRule h13Decode) s

/-- H16_ENC (43_fec_block.md R365). -/
def execH16Enc (s : State) : Host.Outcome State Fault Refusal := runCommand (encoderRule h16Encode) s

/-- H16_DEC (43_fec_block.md R366). -/
def execH16Dec (s : State) : Host.Outcome State Fault Refusal := runCommand (decoderRule h16Decode) s

/-- QR_ENC (43_fec_block.md R367). -/
def execQrEnc (s : State) : Host.Outcome State Fault Refusal := runCommand (encoderRule qrEncode) s

/-- QR_DEC (43_fec_block.md R368). -/
def execQrDec (s : State) : Host.Outcome State Fault Refusal := runCommand (decoderRule qrDecode) s

/-- GOL_ENC (43_fec_block.md R369). -/
def execGolEnc (s : State) : Host.Outcome State Fault Refusal := runCommand (encoderRule golayEncode) s

/-- GOL_DEC (43_fec_block.md R370). -/
def execGolDec (s : State) : Host.Outcome State Fault Refusal := runCommand (decoderRule golayDecode) s

end Sys2Proof.Machine
end

