-- ==== Sys2Proof/Machine/Control.lean ====
section
/-! DEFINITION. The control commands (40_control.md R200 to R202). -/

namespace Sys2Proof.Machine

/-- NOP: nothing but RESULT and DONE (40_control.md R200). -/
def execNop (s : State) : Host.Outcome State Fault Refusal := runCommand (fun s => .ok s) s

/-- SOFT_RESET: the reset, then DONE (40_control.md R201, 70_reset_and_hazards.md R552). -/
def execSoftReset (s : State) : Host.Outcome State Fault Refusal := runCommand (fun s => .ok (resetBlock s)) s

/-- CLR_CNT: both diagnostic counters to 0 (40_control.md R202). -/
def execClrCnt (s : State) : Host.Outcome State Fault Refusal :=
  runCommand (fun s => .ok { s with fecFailCnt := 0, abortCnt := 0 }) s

end Sys2Proof.Machine
end

