-- ==== Sys2Proof/Machine/Bursts.lean ====
section
/-! DEFINITION. The burst: its layout, sync patterns, slot type and EMB field (41_burst_tx.md R230 to R236). -/

namespace Sys2Proof.Machine

/-- The two kinds of sync pattern (41_burst_tx.md R231). -/
inductive SyncKind where
  | voice | data
  deriving DecidableEq, Repr

/-- The eight sync patterns by index: BS, MS, TS1, TS2, each voice then data (41_burst_tx.md R231). -/
def syncPatterns : List (BitVec 48) :=
  [0x755FD7DF75F7, 0xDFF57D75DF5D, 0x7F7D5DD57DFD, 0xD5D7F77FD757,
    0x5D577F7757FF, 0xF7FDD5DDFD55, 0x7DFFD5F55D5F, 0xD7557F5FF7F5]

/-- The pattern of an index 0..7. -/
def syncPattern (k : Nat) : BitVec 48 := syncPatterns.getD k 0

/-- The index of the voice pattern of an origin and a timeslot bit (41_burst_tx.md R232). -/
def voiceSyncIndex (o : SyncOrigin) (ts : Bool) : Nat :=
  match o with
  | .bs => 0
  | .ms => 2
  | .direct => if ts then 6 else 4

/-- `sync(kind, ts)` (41_burst_tx.md R232); a data pattern stands right after its voice pattern (R231). -/
def syncOf (o : SyncOrigin) (kind : SyncKind) (ts : Bool) : BitVec 48 :=
  match kind with
  | .voice => syncPattern (voiceSyncIndex o ts)
  | .data => syncPattern (voiceSyncIndex o ts + 1)

/-- The slot type of a colour code and a data type (41_burst_tx.md R233). -/
def slotType (cc dt : BitVec 4) : BitVec 20 := golayEncode (cc ++ dt)

/-- The EMB field of a colour code, a PI bit and an LCSS (41_burst_tx.md R235). -/
def embField (cc : BitVec 4) (pi : Bool) (lcss : BitVec 2) : BitVec 16 := qrEncode (cc ++ BitVec.ofBool pi ++ lcss)

/-- The LCSS of positions B to E, p = 1..4 (41_burst_tx.md R236). -/
def lcssOf (p : Nat) : BitVec 2 := [1, 3, 3, 2].getD (p - 1) 0

/-- A data/control burst (41_burst_tx.md R230). -/
def dataBurst (info : BitVec 196) (cc dt : BitVec 4) (sync : BitVec 48) : BitVec 264 :=
  bits info 0 98 ++ bits (slotType cc dt) 0 10 ++ sync ++ bits (slotType cc dt) 10 10 ++ bits info 98 98

/-- A voice burst (41_burst_tx.md R230). -/
def voiceBurst (v : BitVec 216) (center : BitVec 48) : BitVec 264 := bits v 0 108 ++ center ++ bits v 108 108

/-- The center of a voice burst at B to F (41_burst_tx.md R235). -/
def embCenter (emb : BitVec 16) (embData : BitVec 32) : BitVec 48 := bits emb 0 8 ++ embData ++ bits emb 8 8

/-- The center of a burst (41_burst_tx.md R230). -/
def centerOf (b : BitVec 264) : BitVec 48 := bits b 108 48

/-- The information bits of a data/control burst (41_burst_tx.md R230). -/
def infoOf (b : BitVec 264) : BitVec 196 := bits b 0 98 ++ bits b 166 98

/-- The slot type field of a data/control burst (41_burst_tx.md R230). -/
def slotTypeOf (b : BitVec 264) : BitVec 20 := bits b 98 10 ++ bits b 156 10

/-- The voice payload of a voice burst (41_burst_tx.md R230). -/
def voiceOf (b : BitVec 264) : BitVec 216 := bits b 0 108 ++ bits b 156 108

/-- The EMB field of a voice burst at B to F (41_burst_tx.md R235). -/
def embOf (b : BitVec 264) : BitVec 16 := bits b 108 8 ++ bits b 148 8

/-- The LC fragment of a voice burst at B to F (41_burst_tx.md R235). -/
def embDataOf (b : BitVec 264) : BitVec 32 := bits b 116 32

end Sys2Proof.Machine
end

