-- ==== Sys2Proof/Machine/LinkCodes.lean ====
section
/-! DEFINITION. The link control record and its checks (45_link_control.md R450 to R458): layout, RS(12,9), CS5. -/

namespace Sys2Proof.Machine

/-- FLCO of the call-flow type: 0x00 group, 0x03 private (45_link_control.md R451). -/
def flcoByte (priv : Bool) : BitVec 8 := if priv then 0x03 else 0x00

/-- `build_lc(C)` (45_link_control.md R450, R456). -/
def buildLc (c : Context) : BitVec 72 := flcoByte c.priv ++ c.fid ++ c.so ++ c.dst ++ c.src

/-- One round of the multiplication of GF(2^8): r is doubled modulo 0x11D, and a is added if the bit of b is 1
(45_link_control.md R452). -/
def gfRound (a : BitVec 8) (bit : Bool) (r : BitVec 9) : BitVec 9 :=
  let doubled := r <<< 1
  let reduced := if doubled.getLsbD 8 then doubled ^^^ 0x11D#9 else doubled
  if bit then reduced ^^^ a.setWidth 9 else reduced

/-- `a ⊗ b` in GF(2^8) (45_link_control.md R452), over the bits of b from 7 down to 0. -/
def gfMul (a b : BitVec 8) : BitVec 8 :=
  ((List.range 8).foldl (fun r i => gfRound a (b.getMsbD i) r) 0#9).setWidth 8

/-- One step of the division by g(x) = x^3 + 0x0E x^2 + 0x38 x + 0x40 (45_link_control.md R453): the leading byte q
is cancelled, and its multiples are added to the next three. -/
def rsDivStep : List (BitVec 8) → List (BitVec 8)
  | q :: r1 :: r2 :: r3 :: rest => (r1 ^^^ gfMul 0x0E q) :: (r2 ^^^ gfMul 0x38 q) :: (r3 ^^^ gfMul 0x40 q) :: rest
  | short => short

/-- n steps of the division. -/
def rsDivide : Nat → List (BitVec 8) → List (BitVec 8)
  | 0, r => r
  | n + 1, r => rsDivide n (rsDivStep r)

/-- The remainder of M(x)·x^3 by g(x), as the bytes P2, P1, P0 (45_link_control.md R453). -/
def rsRemainder (m : BitVec 72) : List (BitVec 8) :=
  rsDivide 9 ((List.range 9).map (byteAt m) ++ [0, 0, 0])

/-- `rs_parity(M)`: the bytes P2, P1, P0 in this order (45_link_control.md R453). -/
def rsParity (m : BitVec 72) : BitVec 24 :=
  (rsRemainder m).getD 0 0 ++ (rsRemainder m).getD 1 0 ++ (rsRemainder m).getD 2 0

/-- The parity mask of a mask select: 1 voice LC header, 2 terminator with LC, otherwise none (45_link_control.md R454). -/
def rsMask (select : Nat) : BitVec 24 :=
  if select = 1 then 0x969696 else if select = 2 then 0x999999 else 0x000000

/-- `full_lc(L, mask)` (45_link_control.md R455). -/
def fullLc (l : BitVec 72) (select : Nat) : BitVec 96 := l ++ (rsParity l ^^^ rsMask select)

/-- `rs_check(F, mask)` (45_link_control.md R457). -/
def rsCheck (f : BitVec 96) (select : Nat) : Bool :=
  decide (bits f 72 24 = rsParity (bits f 0 72) ^^^ rsMask select)

/-- The sum of the first n bytes of a string. -/
def byteSum {w : Nat} (l : BitVec w) : Nat → Nat
  | 0 => 0
  | n + 1 => byteSum l n + (byteAt l n).toNat

/-- `cs5(b)`: the sum of the nine LC bytes modulo 31 (45_link_control.md R458). -/
def cs5Of (l : BitVec 72) : Nat := byteSum l 9 % 31

end Sys2Proof.Machine
end

