-- ==== Sys2Proof/Machine/ProductCodes.lean ====
section
/-! DEFINITION. The product codes (44_fec_bptc.md): BPTC(196,96) (R400 to R403) and the embedded LC code (R410 to R413). -/

namespace Sys2Proof.Machine

/-! ## BPTC(196,96) -/

/-- The matrix form D of a codeword in transmit order X: D[a] = X[(a · 181) mod 196] (44_fec_bptc.md R400). -/
def bptcDeinterleave (x : BitVec 196) : BitVec 196 := mkBits 196 fun a => x.getMsbD (a * 181 % 196)

/-- The transmit order X of a matrix D: X[(a · 181) mod 196] = D[a] (44_fec_bptc.md R400). 13 is the inverse of 181
modulo 196, so X[j] = D[(j · 13) mod 196] (log 9). -/
def bptcInterleave (d : BitVec 196) : BitVec 196 := mkBits 196 fun j => d.getMsbD (j * 13 % 196)

/-- INFOPOS: the matrix positions of the 96 information bits (44_fec_bptc.md R401). -/
def bptcInfoPos : List Nat :=
  [4, 5, 6, 7, 8, 9, 10, 11] ++ (List.range 8).flatMap fun r => (List.range 11).map fun k => 1 + 15 * (r + 1) + k

/-- The matrix positions of row r, columns 0..14 (44_fec_bptc.md R400). -/
def bptcRow (r : Nat) : List Nat := (List.range 15).map fun c => 1 + 15 * r + c

/-- The matrix positions of column c, rows 0..12 (44_fec_bptc.md R400). -/
def bptcCol (c : Nat) : List Nat := (List.range 13).map fun a => 1 + c + 15 * a

/-- The matrix with rows 0..8 coded by Hamming(15,11,3) (44_fec_bptc.md R402). -/
def bptcCodeRows (d : BitVec 196) : BitVec 196 :=
  mkBits 196 fun a =>
    if a = 0 ∨ 9 ≤ (a - 1) / 15 then d.getMsbD a
    else (h15Encode (bits d (1 + 15 * ((a - 1) / 15)) 11)).getMsbD ((a - 1) % 15)

/-- The matrix with columns 0..14 coded by Hamming(13,9,3) (44_fec_bptc.md R402). -/
def bptcCodeCols (d : BitVec 196) : BitVec 196 :=
  mkBits 196 fun a =>
    if a = 0 then d.getMsbD a
    else (h13Encode (gather 9 (bptcCol ((a - 1) % 15)) d)).getMsbD ((a - 1) / 15)

/-- `bptc_encode(I)` (44_fec_bptc.md R402). -/
def bptcEncode (i : BitVec 96) : BitVec 196 :=
  bptcInterleave (bptcCodeCols (bptcCodeRows (scatter 196 bptcInfoPos i)))

/-- The bit of a line (a row or column of the matrix) that its syndrome names, if it names one. -/
def lineError (k : Nat) (eqs : List (List Nat)) (table : List (Nat × Nat)) (n : Nat) (line : List Nat)
    (d : BitVec 196) : Option Nat :=
  if hamSyndrome (gather n line d) k eqs = 0 then none
  else (table.lookup (hamSyndrome (gather n line d) k eqs)).map fun i => line.getD i 0

/-- The error of a row (44_fec_bptc.md R403, Hamming(15,11,3)). -/
def rowError (r : Nat) (d : BitVec 196) : Option Nat := lineError 11 h15Eqs h15Table 15 (bptcRow r) d

/-- The error of a column (44_fec_bptc.md R403, Hamming(13,9,3)); syndromes 0x9 and 0xB name none. -/
def colError (c : Nat) (d : BitVec 196) : Option Nat := lineError 9 h13Eqs h13Table 13 (bptcCol c) d

/-- One line of a pass (44_fec_bptc.md R403): the named bit is flipped and `changed` becomes true. -/
def fixLine (error : BitVec 196 → Option Nat) (st : BitVec 196 × Bool) : BitVec 196 × Bool :=
  match error st.1 with
  | some p => (flipBit st.1 p, true)
  | none => st

/-- One pass (44_fec_bptc.md R403): rows 0..8, then columns 0..14; the flag says whether any bit was flipped. -/
def bptcPass (d : BitVec 196) : BitVec 196 × Bool :=
  (List.range 15).foldl (fun st c => fixLine (colError c) st)
    ((List.range 9).foldl (fun st r => fixLine (rowError r) st) (d, false))

/-- At most n passes, ended by one that changes nothing (44_fec_bptc.md R403). -/
def bptcPasses : Nat → BitVec 196 → BitVec 196
  | 0, d => d
  | n + 1, d => if (bptcPass d).2 then bptcPasses n (bptcPass d).1 else (bptcPass d).1

/-- BPTC_MAX_PASSES (00_scope.md R9). -/
def bptcMaxPasses : Nat := 5

/-- Every row 0..8 and every column 0..14 has syndrome 0 (44_fec_bptc.md R403). -/
def bptcConsistent (d : BitVec 196) : Bool :=
  (List.range 9).all (fun r => hamSyndrome (gather 15 (bptcRow r) d) 11 h15Eqs == 0)
    && (List.range 15).all fun c => hamSyndrome (gather 13 (bptcCol c) d) 9 h13Eqs == 0

/-- The end of `bptc_decode` (44_fec_bptc.md R403): from the received and the corrected matrix to the result. -/
def bptcResult (received corrected : BitVec 196) : BitVec 96 × DecOutcome :=
  if bptcConsistent corrected then (gather 96 bptcInfoPos corrected, outcomeOfChanges (dist corrected received))
  else (0, .fail)

/-- `bptc_decode(X)` (44_fec_bptc.md R403). -/
def bptcDecode (x : BitVec 196) : BitVec 96 × DecOutcome :=
  bptcResult (bptcDeinterleave x) (bptcPasses bptcMaxPasses (bptcDeinterleave x))

/-! ## Embedded LC code -/

/-- EMBINFO: the matrix positions of the 72 LC bits (44_fec_bptc.md R410). -/
def embInfoPos : List Nat :=
  ((List.range 2).flatMap fun r => (List.range 11).map fun c => 16 * r + c)
    ++ (List.range 5).flatMap fun r => (List.range 10).map fun c => 16 * (r + 2) + c

/-- EMBCS: the matrix positions of CS5, its bit 4 first (44_fec_bptc.md R410). -/
def embCsPos : List Nat := [42, 58, 74, 90, 106]

/-- The LC and its checksum at their places in the matrix (44_fec_bptc.md R411). -/
def embPlace (l : BitVec 72) : BitVec 128 :=
  scatter 128 embInfoPos l ||| scatter 128 embCsPos (BitVec.ofNat 5 (cs5Of l))

/-- The matrix with rows 0..6 coded by Hamming(16,11,4) (44_fec_bptc.md R411). -/
def embCodeRows (m : BitVec 128) : BitVec 128 :=
  mkBits 128 fun p => if p < 112 then (h16Encode (bits m (16 * (p / 16)) 11)).getMsbD (p % 16) else m.getMsbD p

/-- The matrix positions of column c, rows 0..6 (44_fec_bptc.md R410). -/
def embCol (c : Nat) : List Nat := (List.range 7).map fun r => 16 * r + c

/-- The matrix with row 7 set to the parity of its columns (44_fec_bptc.md R411). -/
def embCodeCols (m : BitVec 128) : BitVec 128 :=
  mkBits 128 fun p => if p < 112 then m.getMsbD p else parityOf m (embCol (p - 112))

/-- The transmit order E of a matrix m: E[k] = m[(k mod 8) · 16 + floor(k / 8)] (44_fec_bptc.md R412). -/
def embTransmit (m : BitVec 128) : BitVec 128 := mkBits 128 fun k => m.getMsbD (k % 8 * 16 + k / 8)

/-- The matrix m of a transmit order E, the same relation read for decoding (44_fec_bptc.md R413). -/
def embMatrix (e : BitVec 128) : BitVec 128 := mkBits 128 fun p => e.getMsbD (p % 16 * 8 + p / 16)

/-- `emb_encode(L)` (44_fec_bptc.md R411). -/
def embEncode (l : BitVec 72) : BitVec 128 := embTransmit (embCodeCols (embCodeRows (embPlace l)))

/-- `fragment(p)` for p = 1 (B) .. 4 (E): E[32(p-1) .. 32p-1] (44_fec_bptc.md R412). -/
def fragmentOf (e : BitVec 128) (p : Nat) : BitVec 32 := bits e (32 * (p - 1)) 32

/-- The rows corrected in place, and whether any was; `none` as soon as one fails (44_fec_bptc.md R413). -/
def embFixRows : List Nat → BitVec 128 → Bool → Option (BitVec 128 × Bool)
  | [], m, fixed => some (m, fixed)
  | r :: rs, m, fixed =>
    match (hamCorrect 11 h16Eqs h16Table (bits m (16 * r) 16)).2 with
    | .ok => embFixRows rs m fixed
    | .corrected _ =>
      embFixRows rs (setBits m (16 * r) (hamCorrect 11 h16Eqs h16Table (bits m (16 * r) 16)).1) true
    | .fail => none

/-- The columns, all eight rows, of odd parity (44_fec_bptc.md R413). -/
def embBadCols (m : BitVec 128) : List Nat :=
  (List.range 16).filter fun c => parityOf m (embCol c) ^^ m.getMsbD (112 + c)

/-- The column check (44_fec_bptc.md R413): a lone bad column is an error in row 7 if no row was corrected. -/
def embFixCols (m : BitVec 128) (fixed : Bool) : Option (BitVec 128) :=
  match embBadCols m with
  | [] => some m
  | [c] => if fixed then none else some (flipBit m (112 + c))
  | _ => none

/-- The end of `emb_decode` (44_fec_bptc.md R413): the checksum, and the number of changed bits. -/
def embResult (received corrected : BitVec 128) : BitVec 72 × DecOutcome :=
  if (gather 5 embCsPos corrected).toNat = cs5Of (gather 72 embInfoPos corrected) then
    (gather 72 embInfoPos corrected, outcomeOfChanges (dist corrected received))
  else (0, .fail)

/-- `emb_decode(E)` (44_fec_bptc.md R413). -/
def embDecode (e : BitVec 128) : BitVec 72 × DecOutcome :=
  match embFixRows (List.range 7) (embMatrix e) false with
  | none => (0, .fail)
  | some (m, fixed) =>
    match embFixCols m fixed with
    | none => (0, .fail)
    | some m' => embResult (embMatrix e) m'

end Sys2Proof.Machine
end

