-- ==== Sys2Proof/Machine/Deframer.lean ====
section
/-! DEFINITION. The receive deframer and LC reassembly (42_burst_rx.md R300 to R310). -/

namespace Sys2Proof.Machine

/-! ## RESULT and counters -/

/-- The outcome of a decoder that did not fail, recorded in RESULT (42_burst_rx.md R300). -/
def noteOutcome (o : DecOutcome) (s : State) : State := { s with result := recordOutcome o s.result }

/-- RESULT.RX_CLASS (10_state.md R56). -/
def setClass (c : BitVec 4) (s : State) : State := { s with result := { s.result with rxClass := c } }

/-- RESULT.PL: a payload was handed over (10_state.md R56). -/
def setPl (s : State) : State := { s with result := { s.result with pl := true } }

/-- `drop()` (42_burst_rx.md R305). -/
def dropBurst (s : State) : State :=
  { s with result := { s.result with uncorr := true, rxClass := 4 }, fecFailCnt := s.fecFailCnt + 1 }

/-- An LC record surfaced into RX_LC, with the LC event (42_burst_rx.md R303, R309). -/
def surfaceLc (l : BitVec 72) (s : State) : State :=
  { storeBuf .rxLc l s with
    status := { s.status with lcEv := true }
    result := { s.result with lc := true } }

/-! ## Reassembly -/

/-- `pending()` (42_burst_rx.md R307): RX_ABORT = 0, a fragment held, and RX_POS in {1, 2, 3}. -/
def reassemblyPending (s : State) : Bool :=
  !s.rx.abort && s.rx.fragMask != 0 && decide (1 ≤ s.rx.pos.toNat ∧ s.rx.pos.toNat ≤ 3)

/-- A sync burst that arrives while reassembly is pending counts as an abandonment (42_burst_rx.md R302, R304). -/
def countPending (s : State) : State :=
  if reassemblyPending s then { s with abortCnt := s.abortCnt + 1 } else s

/-- `abort_sf()` (42_burst_rx.md R307): once for each superframe. -/
def abortSf (s : State) : State :=
  if s.rx.abort then s else { s with rx := { s.rx with abort := true }, abortCnt := s.abortCnt + 1 }

/-- A position is taken up with no fragment held and no abort (42_burst_rx.md R302, R304, R310). -/
def restartReassembly (pos : BitVec 3) (s : State) : State :=
  storeBuf .rxFrag 0#128 { s with rx := { s.rx with pos := pos, abort := false, fragMask := 0 } }

/-- RXSTATE.RX_POS <- pos. -/
def setRxPos (pos : BitVec 3) (s : State) : State := { s with rx := { s.rx with pos := pos } }

/-- The position is one of B to E. -/
def isFragmentPos (pos : BitVec 3) : Bool := decide (1 ≤ pos.toNat ∧ pos.toNat ≤ 4)

/-- `store_fragment(b, p)` (42_burst_rx.md R308). -/
def storeFragment (b : BitVec 264) (p : Nat) (s : State) : State :=
  if s.rx.lcss = lcssOf p then
    storeBuf .rxFrag (setBits (loadBuf 128 .rxFrag s) (32 * (p - 1)) (embDataOf b))
      { s with rx := { s.rx with fragMask := s.rx.fragMask ||| BitVec.twoPow 4 (p - 1) } }
  else abortSf s

/-- `assemble_lc()` (42_burst_rx.md R309): `none` when the embedded LC does not decode, and then nothing changes. -/
def assembleLc (s : State) : Option State :=
  match (embDecode (loadBuf 128 .rxFrag s)).2 with
  | .fail => none
  | o => some (surfaceLc (embDecode (loadBuf 128 .rxFrag s)).1 (noteOutcome o s))

/-! ## Bursts by kind -/

/-- `sync_match(c)` (42_burst_rx.md R301): the nearest pattern, the lowest index of equally near ones, and its
distance. -/
def syncMatch (c : BitVec 48) : Nat × Nat :=
  (List.range 8).foldl
    (fun best k => if dist c (syncPattern k) < best.2 then (k, dist c (syncPattern k)) else best)
    (0, dist c (syncPattern 0))

/-- `rx_full_lc(info, dt)` (42_burst_rx.md R303); dt is 1 or 2 and is the mask select. -/
def rxFullLc (info : BitVec 196) (dt : Nat) (s : State) : State :=
  match (bptcDecode info).2 with
  | .fail => dropBurst s
  | o =>
    if rsCheck (bptcDecode info).1 dt then surfaceLc (bits (bptcDecode info).1 0 72) (noteOutcome o s)
    else dropBurst (noteOutcome o s)

/-- The part of `rx_data(b)` after the slot type has decoded to v with outcome o (42_burst_rx.md R302). -/
def rxDataDecoded (b : BitVec 264) (v : BitVec 8) (o : DecOutcome) (s : State) : State :=
  let s := setClass 1 (noteOutcome o { s with rx := { s.rx with cc := v.extractLsb' 4 4, dt := v.extractLsb' 0 4 } })
  if s.rx.dt = 1 ∨ s.rx.dt = 2 then rxFullLc (infoOf b) s.rx.dt.toNat s
  else setPl (writeDataOut (infoOf b) s)

/-- `rx_data(b)` (42_burst_rx.md R302). -/
def rxData (b : BitVec 264) (s : State) : State :=
  let s := restartReassembly 7 (countPending s)
  match (golayDecode (slotTypeOf b)).2 with
  | .fail => dropBurst s
  | o => rxDataDecoded b (golayDecode (slotTypeOf b)).1 o s

/-- The voice payload handed over (42_burst_rx.md R304, R306). -/
def handOverVoice (b : BitVec 264) (cls : BitVec 4) (s : State) : State :=
  setClass cls (setPl (storeBuf .voiceOut (voiceOf b) s))

/-- `rx_voice_sync(b)` (42_burst_rx.md R304). -/
def rxVoiceSync (b : BitVec 264) (s : State) : State :=
  handOverVoice b 2 (restartReassembly 0 (countPending s))

/-- The position after one more burst without a sync (42_burst_rx.md R306). -/
def nextRxPos (pos : BitVec 3) : BitVec 3 := if pos.toNat ≤ 4 then pos + 1 else 7

/-- An EMB that does not decode (42_burst_rx.md R306): a drop, and the superframe is abandoned at B to E. -/
def rxEmbFail (new : BitVec 3) (s : State) : State :=
  if isFragmentPos new then abortSf (setRxPos new (dropBurst s)) else setRxPos new (dropBurst s)

/-- RXSTATE and RESULT from an EMB that decoded to v with outcome o (42_burst_rx.md R306). -/
def noteEmb (v : BitVec 7) (o : DecOutcome) (new : BitVec 3) (s : State) : State :=
  setRxPos new (noteOutcome o
    { s with rx := { s.rx with cc := v.extractLsb' 3 4, pi := v.getLsbD 2, lcss := v.extractLsb' 0 2 } })

/-- The fragment of a burst at B to E, unless the superframe is abandoned (42_burst_rx.md R306). -/
def takeFragment (b : BitVec 264) (new : BitVec 3) (s : State) : State :=
  if isFragmentPos new && !s.rx.abort then storeFragment b new.toNat s else s

/-- The end of `rx_embedded(b)` (42_burst_rx.md R306): at E with all four fragments the LC is assembled, and a
failure drops the burst; otherwise the voice payload is handed over. -/
def finishEmbedded (b : BitVec 264) (new : BitVec 3) (s : State) : State :=
  if new = 4 ∧ s.rx.abort = false ∧ s.rx.fragMask = 0xF then
    match assembleLc s with
    | none => dropBurst s
    | some t => handOverVoice b 3 t
  else handOverVoice b 3 s

/-- `rx_embedded(b)` (42_burst_rx.md R306). -/
def rxEmbedded (b : BitVec 264) (s : State) : State :=
  match (qrDecode (embOf b)).2 with
  | .fail => rxEmbFail (nextRxPos s.rx.pos) s
  | o =>
    finishEmbedded b (nextRxPos s.rx.pos)
      (takeFragment b (nextRxPos s.rx.pos) (noteEmb (qrDecode (embOf b)).1 o (nextRxPos s.rx.pos) s))

/-- VOICE_OUT and DATA_OUT set to zero (42_burst_rx.md R300, 10_state.md R65). -/
def clearOutputs (s : State) : State := storeBuf .dataOut 0#256 (storeBuf .voiceOut 0#216 s)

/-- A burst whose nearest sync pattern has index k (42_burst_rx.md R300): odd indices are data patterns. -/
def rxSynced (k : Nat) (b : BitVec 264) (s : State) : State :=
  let s := { s with rx := { s.rx with syncId := BitVec.ofNat 3 k } }
  if k % 2 = 1 then rxData b s else rxVoiceSync b s

/-- RX_BURST (42_burst_rx.md R300). -/
def rxBurst (s : State) : State :=
  let b : BitVec 264 := loadBuf 264 .burstIn s
  let s := clearOutputs s
  if (syncMatch (centerOf b)).2 ≤ s.ctrl.syncTol.toNat then rxSynced (syncMatch (centerOf b)).1 b s
  else rxEmbedded b s

/-- RX_BURST (42_burst_rx.md R300). It raises no error: a burst that does not decode is a result. -/
def execRxBurst (s : State) : Host.Outcome State Fault Refusal := runCommand (fun s => .ok (rxBurst s)) s

/-- RX_RESET (42_burst_rx.md R310). -/
def execRxReset (s : State) : Host.Outcome State Fault Refusal := runCommand (fun s => .ok (restartReassembly 7 s)) s

end Sys2Proof.Machine
end

