-- ==== Sys2Proof/Machine/Framer.lean ====
section
/-! DEFINITION. The transmit framer (41_burst_tx.md R238 to R244): the latch and the TX commands. -/

namespace Sys2Proof.Machine

/-- `latch()` (41_burst_tx.md R238): the active context, its LC and its coded embedded LC, in one step. -/
def latch (s : State) : State :=
  storeBuf .embTx (embEncode (buildLc s.ctx)) (storeBuf .lcAct (buildLc s.ctx) { s with act := s.ctx })

/-- CALL_START (41_burst_tx.md R240). -/
def callStartRule (s : State) : Except ErrCode State :=
  if validContext s.ctx then .ok { latch s with tx := { pos := 0, active := true } } else .error .badContext

/-- The burst that carries the Full LC of LC_ACT with a data type, which is also the mask select of its parity
(41_burst_tx.md R241, R243; 45_link_control.md R454). -/
def lcBurst (dt : BitVec 4) (s : State) : BitVec 264 :=
  dataBurst (bptcEncode (fullLc (loadBuf 72 .lcAct s) dt.toNat)) s.act.cc dt (syncOf s.ctrl.syncOrigin .data s.act.ts)

/-- TX_HDR (41_burst_tx.md R241). -/
def txHdrRule (s : State) : Except ErrCode State :=
  if s.tx.active then .ok (storeBuf .burstOut (lcBurst 1 s) s) else .error .noCall

/-- The center of the voice burst at the current position (41_burst_tx.md R242): the voice sync at A, the EMB field
around a fragment of EMB_TX at B to E, around zeros at F. -/
def voiceCenter (s : State) : BitVec 48 :=
  if s.tx.pos = 0 then syncOf s.ctrl.syncOrigin .voice s.act.ts
  else if s.tx.pos.toNat ≤ 4 then
    embCenter (embField s.act.cc false (lcssOf s.tx.pos.toNat)) (fragmentOf (loadBuf 128 .embTx s) s.tx.pos.toNat)
  else embCenter (embField s.act.cc false 0) 0#32

/-- The voice burst at the current position, and the position advanced modulo 6 (41_burst_tx.md R242). -/
def sendVoice (s : State) : State :=
  { storeBuf .burstOut (voiceBurst (loadBuf 216 .voiceIn s) (voiceCenter s)) s with
    tx := { s.tx with pos := BitVec.ofNat 3 ((s.tx.pos.toNat + 1) % 6) } }

/-- TX_VOICE (41_burst_tx.md R242): position A latches the context first. -/
def txVoiceRule (s : State) : Except ErrCode State :=
  if s.tx.active then
    if s.tx.pos = 0 then
      if validContext s.ctx then .ok (sendVoice (latch s)) else .error .badContext
    else .ok (sendVoice s)
  else .error .noCall

/-- TX_TERM (41_burst_tx.md R243). -/
def txTermRule (s : State) : Except ErrCode State :=
  if s.tx.active then .ok { storeBuf .burstOut (lcBurst 2 s) s with tx := { pos := 0, active := false } }
  else .error .noCall

/-- TX_DATA (41_burst_tx.md R244): a data type above 11 is not legal (30_encoding.md R154). -/
def txDataRule (dt : BitVec 4) (s : State) : Except ErrCode State :=
  if dt.toNat ≤ 11 then
    .ok (storeBuf .burstOut
      (dataBurst (dataInBits 196 s) s.ctx.cc dt (syncOf s.ctrl.syncOrigin .data s.ctx.ts)) s)
  else .error .illegalCmd

/-- CALL_START (41_burst_tx.md R240). -/
def execCallStart (s : State) : Host.Outcome State Fault Refusal := runCommand callStartRule s

/-- TX_HDR (41_burst_tx.md R241). -/
def execTxHdr (s : State) : Host.Outcome State Fault Refusal := runCommand txHdrRule s

/-- TX_VOICE (41_burst_tx.md R242). -/
def execTxVoice (s : State) : Host.Outcome State Fault Refusal := runCommand txVoiceRule s

/-- TX_TERM (41_burst_tx.md R243). -/
def execTxTerm (s : State) : Host.Outcome State Fault Refusal := runCommand txTermRule s

/-- TX_DATA (41_burst_tx.md R244). -/
def execTxData (dt : BitVec 4) (s : State) : Host.Outcome State Fault Refusal := runCommand (txDataRule dt) s

end Sys2Proof.Machine
end

