-- ==== Sys2Proof/Machine/LinkControl.lean ====
section
/-! DEFINITION. The link control commands (45_link_control.md R460 to R463). -/

namespace Sys2Proof.Machine

/-- LC_BUILD: the LC of the shadow context, which must be valid (45_link_control.md R460). -/
def lcBuildRule (s : State) : Except ErrCode State :=
  if validContext s.ctx then .ok (writeDataOut (buildLc s.ctx) s) else .error .badContext

/-- RS_ENC: the message and its masked parity; a mask select above 2 is not legal (45_link_control.md R461,
30_encoding.md R154). -/
def rsEncRule (mask : BitVec 4) (s : State) : Except ErrCode State :=
  if mask.toNat ≤ 2 then .ok (writeDataOut (fullLc (dataInBits 72 s) mask.toNat) s) else .error .illegalCmd

/-- RS_CHK: the message if its parity matches under the mask, otherwise zeros and UNCORR (45_link_control.md R462). -/
def rsChkRule (mask : BitVec 4) (s : State) : Except ErrCode State :=
  if mask.toNat ≤ 2 then
    if rsCheck (dataInBits 96 s) mask.toNat then .ok (writeDataOut (dataInBits 72 s) s)
    else .ok { writeDataOut 0#72 s with result := recordOutcome .fail s.result }
  else .error .illegalCmd

/-- LC_BUILD (45_link_control.md R460). -/
def execLcBuild (s : State) : Host.Outcome State Fault Refusal := runCommand lcBuildRule s

/-- RS_ENC (45_link_control.md R461). -/
def execRsEnc (mask : BitVec 4) (s : State) : Host.Outcome State Fault Refusal := runCommand (rsEncRule mask) s

/-- RS_CHK (45_link_control.md R462). -/
def execRsChk (mask : BitVec 4) (s : State) : Host.Outcome State Fault Refusal := runCommand (rsChkRule mask) s

/-- CS5: the checksum in byte 0 of DATA_OUT (45_link_control.md R463). -/
def execCs5 (s : State) : Host.Outcome State Fault Refusal :=
  runCommand (encoderRule fun l : BitVec 72 => BitVec.ofNat 8 (cs5Of l)) s

end Sys2Proof.Machine
end

