-- ==== Sys2Proof/Machine/ProductFec.lean ====
section
/-! DEFINITION. The product-code commands (44_fec_bptc.md R405, R406, R414, R415). -/

namespace Sys2Proof.Machine

/-- BPTC_ENC (44_fec_bptc.md R405). -/
def execBptcEnc (s : State) : Host.Outcome State Fault Refusal := runCommand (encoderRule bptcEncode) s

/-- BPTC_DEC (44_fec_bptc.md R406). -/
def execBptcDec (s : State) : Host.Outcome State Fault Refusal := runCommand (decoderRule bptcDecode) s

/-- EMB_ENC (44_fec_bptc.md R414). -/
def execEmbEnc (s : State) : Host.Outcome State Fault Refusal := runCommand (encoderRule embEncode) s

/-- EMB_DEC (44_fec_bptc.md R415). -/
def execEmbDec (s : State) : Host.Outcome State Fault Refusal := runCommand (decoderRule embDecode) s

end Sys2Proof.Machine
end

