-- ==== Sys2Proof/Machine/Dispatch.lean ====
section
/-! DEFINITION. The meaning of every command: one arm per row of the opcode map (30_encoding.md R153). -/

namespace Sys2Proof.Machine

/-- What a command does (30_encoding.md R152, R153). -/
def exec (i : Instr) (s : State) : Host.Outcome State Fault Refusal :=
  match i with
  | .nop => Sys2Proof.Machine.execNop s
  | .softReset => Sys2Proof.Machine.execSoftReset s
  | .clrCnt => Sys2Proof.Machine.execClrCnt s
  | .h15Enc => Sys2Proof.Machine.execH15Enc s
  | .h15Dec => Sys2Proof.Machine.execH15Dec s
  | .h13Enc => Sys2Proof.Machine.execH13Enc s
  | .h13Dec => Sys2Proof.Machine.execH13Dec s
  | .h16Enc => Sys2Proof.Machine.execH16Enc s
  | .h16Dec => Sys2Proof.Machine.execH16Dec s
  | .qrEnc => Sys2Proof.Machine.execQrEnc s
  | .qrDec => Sys2Proof.Machine.execQrDec s
  | .golEnc => Sys2Proof.Machine.execGolEnc s
  | .golDec => Sys2Proof.Machine.execGolDec s
  | .bptcEnc => Sys2Proof.Machine.execBptcEnc s
  | .bptcDec => Sys2Proof.Machine.execBptcDec s
  | .embEnc => Sys2Proof.Machine.execEmbEnc s
  | .embDec => Sys2Proof.Machine.execEmbDec s
  | .callStart => Sys2Proof.Machine.execCallStart s
  | .txHdr => Sys2Proof.Machine.execTxHdr s
  | .txVoice => Sys2Proof.Machine.execTxVoice s
  | .txTerm => Sys2Proof.Machine.execTxTerm s
  | .txData dt => Sys2Proof.Machine.execTxData dt s
  | .rxBurst => Sys2Proof.Machine.execRxBurst s
  | .rxReset => Sys2Proof.Machine.execRxReset s
  | .lcBuild => Sys2Proof.Machine.execLcBuild s
  | .rsEnc mask => Sys2Proof.Machine.execRsEnc mask s
  | .rsChk mask => Sys2Proof.Machine.execRsChk mask s
  | .cs5 => Sys2Proof.Machine.execCs5 s

end Sys2Proof.Machine
end

