-- ==== Sys2Proof/Machine/Bus.lean ====
section
/-! DEFINITION. The host's bus transactions (20_memory.md R110 to R114), the execution of a word written to CMD
(30_encoding.md R152), and the reset input (70_reset_and_hazards.md R551). -/

namespace Sys2Proof.Machine

/-- What a read gives back to the host. -/
def respond (v : Word) (s : State) : State := { s with response := some v }

/-- The error entry of a transaction that is not admitted (20_memory.md R114): a BUS error leaves DONE and RESULT
unchanged (60_exceptions.md R504). -/
def busError (s : State) : State := errorEntry .bus false s

/-- The execution of the word v written to CMD (30_encoding.md R152): the command that v encodes, or the error
ILLEGAL_CMD with RESULT = 0. -/
def executeWord (v : Word) (s : State) : Host.Outcome State Fault Refusal :=
  match decode v with
  | .ok i => exec i s
  | .error _ => .next (errorEntry .illegalCmd true (clearResult s))

/-- A register write (20_memory.md R111). -/
def writeReg (r : Reg) (v : Word) (s : State) : Host.Outcome State Fault Refusal :=
  match r with
  | .ctrl => .next { s with ctrl := writeCtrl s.ctrl v }
  | .status => .next (acknowledge v s)
  | .cmd => executeWord v s
  | .ctxCfg => .next { s with ctx := writeCfg s.ctx v }
  | .ctxDst => .next { s with ctx := writeDst s.ctx v }
  | .ctxSrc => .next { s with ctx := writeSrc s.ctx v }
  | .ctxOpt => .next { s with ctx := writeOpt s.ctx v }
  | .id | .result | .txState | .rxState | .fecFailCnt | .abortCnt | .actCfg | .actDst | .actSrc | .actOpt =>
    .next (busError s)

/-- MemRead(a, n): a register read at width 4 (20_memory.md R110), a buffer read at width 1 (R112), otherwise
Error(BUS), whose read returns 0 (R114). -/
def busRead (a : Offset) (width : Nat) (s : State) : State :=
  if width = 4 then
    match regAt a with
    | some r => respond (readReg s r) s
    | none => respond 0 (busError s)
  else if width = 1 then
    match bufAt a.toNat with
    | some _ => respond ((memRead s.mem a.toNat).setWidth 32) s
    | none => respond 0 (busError s)
  else respond 0 (busError s)

/-- MemWrite(a, n, v): a register write at width 4 (20_memory.md R111), a byte write to DATA_IN, BURST_IN or
VOICE_IN at width 1 (R113), otherwise Error(BUS) (R114). -/
def busWrite (a : Offset) (width : Nat) (v : Word) (s : State) : Host.Outcome State Fault Refusal :=
  if width = 4 then
    match regAt a with
    | some r => writeReg r v s
    | none => .next (busError s)
  else if width = 1 then
    match bufAt a.toNat with
    | some b =>
      if bufWritable b then .next { s with mem := memWrite s.mem a.toNat (v.setWidth 8) } else .next (busError s)
    | none => .next (busError s)
  else .next (busError s)

/-- One transaction (20_memory.md R115): it completes before the next one. -/
def transact (t : Txn) (s : State) : Host.Outcome State Fault Refusal :=
  match t with
  | .read a width => .next (busRead a width s)
  | .write a width v => busWrite a width v s

/-- One host event. While `rst` is asserted the block is held at its reset values and a transaction is not
delivered (70_reset_and_hazards.md R550, R551, K15). -/
def deliver (e : HostEvent) (s : State) : Host.Outcome State Fault Refusal :=
  match e with
  | .rst true => .next { resetBlock s with rst := true }
  | .rst false => .next { s with rst := false }
  | .txn t => if s.rst then .next s else transact t s

end Sys2Proof.Machine
end

