-- ==== Sys2Proof/Machine/Step.lean ====
section
/-! DEFINITION. The step: the block takes the next host event (20_memory.md R120), and where the host places a command. -/

namespace Sys2Proof.Machine

/-- One step: the oldest undelivered host event takes effect, completely (20_memory.md R115, R120). With none
waiting the block holds its state unchanged (60_exceptions.md R515). -/
def step (s : State) : Host.Outcome State Fault Refusal :=
  match s.inputs with
  | [] => .next s
  | e :: rest => deliver e { s with inputs := rest, response := none }

/-- The state whose next event is the host's write of a command word to CMD, offset 0x00C (10_state.md R55), with
`rst` deasserted so that the transaction is delivered (log 1). -/
def State.withFetchWord (s : State) (nbits w : Nat) : State :=
  { s with
    rst := false
    inputs := .txn (.write 0x00C 4 (BitVec.ofNat 32 (w % 2 ^ nbits))) :: s.inputs }

end Sys2Proof.Machine
end

