-- ==== Sys2Proof/Safety.lean ====
section
/-! DEFINITION. What counts as a legal state and a safe run: the relations between the registers and buffers that
the spec promises, and that no run stops. -/

namespace Sys2Proof.Machine

/-- The register fields hold only the values their rules allow (10_state.md R53, R54, R56, R60, R61): SYNC_TOL 0..4,
ERRCODE 0..4 and 0 exactly when ERR is 0, RX_CLASS 0..4, TX_POS 0..5, RX_POS not 6. -/
abbrev LegalFields (s : State) : Prop :=
  s.ctrl.syncTol.toNat ≤ 4 ∧ s.status.errCode.toNat ≤ 4 ∧ (s.status.err = false ↔ s.status.errCode = 0) ∧
    s.result.rxClass.toNat ≤ 4 ∧ s.tx.pos.toNat ≤ 5 ∧ s.rx.pos ≠ 6

/-- The call state (10_state.md R58, R60, R67): the position is A when no call is active, and the active context of
an active call is valid. -/
abbrev LegalCall (s : State) : Prop :=
  (s.tx.active = false → s.tx.pos = 0) ∧ (s.tx.active = true → validContext s.act = true)

end Sys2Proof.Machine
end

