-- ==== Sys2Proof/Certificates/Slice0/Obligations.lean ====
section
/-! DEFINITION. The statements for the provers: what the commands, the bus, the errors and the reset do, from the
numbered rules of spec/. The helpers of the first part say frames and tables in the spec's own terms. -/

namespace Sys2Proof.Claims

open Sys2Proof.Machine

/-! ## Frames -/

/-- What no command but SOFT_RESET writes: CTRL, the shadow context, the reset input and the host's side of the bus. -/
abbrev HostSideSame (s t : State) : Prop :=
  t.ctrl = s.ctrl ∧ t.ctx = s.ctx ∧ t.rst = s.rst ∧ t.inputs = s.inputs ∧ t.response = s.response

/-- The active context and the TX sequencer are as before. -/
abbrev TxSame (s t : State) : Prop := t.act = s.act ∧ t.tx = s.tx

/-- The RX reassembler and both counters are as before. -/
abbrev RxSame (s t : State) : Prop := t.rx = s.rx ∧ t.fecFailCnt = s.fecFailCnt ∧ t.abortCnt = s.abortCnt

/-- STATUS.DONE is set and the rest of STATUS is as before. -/
abbrev OnlyDoneSet (s t : State) : Prop := t.status = { s.status with done := true }

/-- Every byte outside the listed buffers reads as before. -/
abbrev MemSameOutside (bufs : List Buf) (s t : State) : Prop :=
  ∀ a, (∀ b ∈ bufs, inBuf b a = false) → memRead t.mem a = memRead s.mem a

/-- The frame of a command whose only result is DATA_OUT (and RESULT). -/
abbrev DataCommandFrame (s t : State) : Prop :=
  HostSideSame s t ∧ TxSame s t ∧ RxSame s t ∧ OnlyDoneSet s t ∧ MemSameOutside [.dataOut] s t

/-- The frame of RX_BURST but for the reassembler, RESULT and STATUS. -/
abbrev RxFrame (bufs : List Buf) (s t : State) : Prop := HostSideSame s t ∧ TxSame s t ∧ MemSameOutside bufs s t

/-- A whole result in DATA_OUT, zero past its end, and RESULT (10_state.md R65, 43_fec_block.md R350). -/
abbrev Delivers {k : Nat} (t : State) (d : BitVec k) (r : Result) : Prop :=
  loadBuf 256 .dataOut t = padTo 256 d ∧ t.result = r

/-- RESULT after decoders that changed m ≤ 255 bits and did not fail. -/
abbrev decodedResult (m : Nat) : Result :=
  { clearedResult with corr := decide (m ≠ 0), ncorr := BitVec.ofNat 8 m }

/-- RESULT after a FAIL. -/
abbrev failedResult : Result := { clearedResult with uncorr := true }

/-- The state after a command's error (60_exceptions.md R503, R504). -/
abbrev afterError (code : BitVec 3) (s : State) : State :=
  { s with
    result := clearedResult
    status := { s.status with
      errCode := if s.status.err then s.status.errCode else code
      err := true
      done := true } }

/-- The state after a BUS error (20_memory.md R114, 60_exceptions.md R504). -/
abbrev afterBusError (s : State) : State :=
  { s with status := { s.status with errCode := if s.status.err then s.status.errCode else 4, err := true } }

/-! ## Tables of the spec -/

/-- The reserved OP values (30_encoding.md R155). -/
abbrev ReservedOp (op : Nat) : Prop :=
  (0x03 ≤ op ∧ op ≤ 0x0F) ∨ (0x1A ≤ op ∧ op ≤ 0x1F) ∨ (0x24 ≤ op ∧ op ≤ 0x2F) ∨ (0x35 ≤ op ∧ op ≤ 0x3F) ∨
    (0x42 ≤ op ∧ op ≤ 0x4F) ∨ 0x54 ≤ op

/-- A word is legal (30_encoding.md R151): MBZ zero, OP not reserved, ARG in its opcode's range. -/
abbrev LegalWord (v : Word) : Prop :=
  v.toNat / 4096 = 0 ∧ ¬ ReservedOp (v.toNat % 256) ∧
    v.toNat / 256 % 16 ≤ (if v.toNat % 256 = 0x34 then 11
      else if v.toNat % 256 = 0x51 ∨ v.toNat % 256 = 0x52 then 2 else 0)

/-- The unmapped offsets (20_memory.md R102). -/
abbrev Unmapped (a : Nat) : Prop :=
  (0x044 ≤ a ∧ a ≤ 0x0FF) ∨ (0x161 ≤ a ∧ a ≤ 0x17F) ∨ (0x1A1 ≤ a ∧ a ≤ 0x1BF) ∨ (0x1DB ≤ a ∧ a ≤ 0x1DF) ∨
    (0x1FB ≤ a ∧ a ≤ 0x1FF) ∨ (0x209 ≤ a ∧ a ≤ 0x20F) ∨ (0x219 ≤ a ∧ a ≤ 0x21F) ∨ (0x240 ≤ a ∧ a ≤ 0xFFF)

/-- The read-only registers other than STATUS (20_memory.md R111). -/
abbrev readOnlyRegs : List Offset := [0x000, 0x020, 0x024, 0x028, 0x02C, 0x030, 0x034, 0x038, 0x03C, 0x040]

/-- The registers with their offsets and the words they read as (20_memory.md R102, R110). -/
abbrev registerTable (s : State) : List (Reg × Offset × Word) :=
  [(.id, 0x000, 0x01444D52), (.ctrl, 0x004, ctrlWord s.ctrl), (.status, 0x008, statusWord s.status), (.cmd, 0x00C, 0),
    (.ctxCfg, 0x010, cfgWord s.ctx), (.ctxDst, 0x014, dstWord s.ctx), (.ctxSrc, 0x018, srcWord s.ctx),
    (.ctxOpt, 0x01C, optWord s.ctx), (.result, 0x020, resultWord s.result), (.txState, 0x024, txStateWord s.tx),
    (.rxState, 0x028, rxStateWord s.rx), (.fecFailCnt, 0x02C, s.fecFailCnt), (.abortCnt, 0x030, s.abortCnt),
    (.actCfg, 0x034, cfgWord s.act), (.actDst, 0x038, dstWord s.act), (.actSrc, 0x03C, srcWord s.act),
    (.actOpt, 0x040, optWord s.act)]

/-- The buffers with their first offsets and their lengths in bytes (20_memory.md R102, 10_state.md R64). -/
abbrev bufferTable : List (Buf × Nat × Nat) :=
  [(.dataIn, 0x100, 32), (.dataOut, 0x120, 32), (.burstIn, 0x140, 33), (.burstOut, 0x180, 33), (.voiceIn, 0x1C0, 27),
    (.voiceOut, 0x1E0, 27), (.lcAct, 0x200, 9), (.rxLc, 0x210, 9), (.embTx, 0x220, 16), (.rxFrag, 0x230, 16)]

/-- The buffer bytes the host may write (10_state.md R64): DATA_IN, BURST_IN, VOICE_IN. -/
abbrev WritableByte (a : Nat) : Prop :=
  (0x100 ≤ a ∧ a ≤ 0x11F) ∨ (0x140 ≤ a ∧ a ≤ 0x160) ∨ (0x1C0 ≤ a ∧ a ≤ 0x1DA)

/-- The buffer bytes the host may only read (10_state.md R64). -/
abbrev ReadOnlyByte (a : Nat) : Prop :=
  (0x120 ≤ a ∧ a ≤ 0x13F) ∨ (0x180 ≤ a ∧ a ≤ 0x1A0) ∨ (0x1E0 ≤ a ∧ a ≤ 0x1FA) ∨ (0x200 ≤ a ∧ a ≤ 0x208) ∨
    (0x210 ≤ a ∧ a ≤ 0x218) ∨ (0x220 ≤ a ∧ a ≤ 0x23F)

/-- A transaction that is not admitted for its offset and width alone (20_memory.md R114, the first four points). -/
abbrev NotAdmitted (a width : Nat) : Prop :=
  Unmapped a ∨ (width = 4 ∧ ¬ (a ≤ 0x040 ∧ a % 4 = 0)) ∨ ((width = 1 ∨ width = 2) ∧ a ≤ 0x043) ∨
    (width ≠ 1 ∧ width ≠ 4)

/-- A context is valid (10_state.md R67). -/
abbrev ValidContext (c : Context) : Prop := c.dst ≠ 0 ∧ c.src ≠ 0

/-- The error a command raises in a state, as the value of ERRCODE (60_exceptions.md R501, R502); ILLEGAL_CMD
belongs to words that are not legal. -/
abbrev raisedBy (i : Instr) (s : State) : Option (BitVec 3) :=
  match i with
  | .txHdr | .txTerm => if s.tx.active then none else some 2
  | .txVoice =>
    if s.tx.active then (if s.tx.pos = 0 ∧ ¬ ValidContext s.ctx then some 3 else none) else some 2
  | .callStart | .lcBuild => if ValidContext s.ctx then none else some 3
  | _ => none

/-- The sync pattern a transmit command uses (41_burst_tx.md R231, R232). -/
abbrev syncWord (o : SyncOrigin) (data ts : Bool) : BitVec 48 :=
  match o, data, ts with
  | .bs, false, _ => 0x755FD7DF75F7
  | .bs, true, _ => 0xDFF57D75DF5D
  | .ms, false, _ => 0x7F7D5DD57DFD
  | .ms, true, _ => 0xD5D7F77FD757
  | .direct, false, false => 0x5D577F7757FF
  | .direct, true, false => 0xF7FDD5DDFD55
  | .direct, false, true => 0x7DFFD5F55D5F
  | .direct, true, true => 0xD7557F5FF7F5

/-- The sync patterns by index, BS, MS, TS1, TS2, each voice then data (41_burst_tx.md R231). -/
abbrev syncTable : List (BitVec 48) :=
  [0x755FD7DF75F7, 0xDFF57D75DF5D, 0x7F7D5DD57DFD, 0xD5D7F77FD757, 0x5D577F7757FF, 0xF7FDD5DDFD55, 0x7DFFD5F55D5F,
    0xD7557F5FF7F5]

/-- The distance of a burst's center to the pattern of an index 0..7 of the table (41_burst_tx.md R230, R231). -/
abbrev syncDistance (b : BitVec 264) (k : Nat) : Nat := dist (centerOf b) (syncTable.getD k 0)

/-- The product of two binary polynomials, the second with k coefficients. -/
def polyMul (g q : Nat) : Nat → Nat
  | 0 => 0
  | k + 1 => polyMul g q k ^^^ (if q.testBit k then g <<< k else 0)

/-- The value of a polynomial over GF(2^8) at a point, its highest coefficient first (45_link_control.md R453). -/
def polyAt (point : BitVec 8) (coefficients : List (BitVec 8)) : BitVec 8 :=
  coefficients.foldl (fun acc c => gfMul acc point ^^^ c) 0

/-- The power of α = 0x02 (45_link_control.md R452). -/
def alphaPow : Nat → BitVec 8
  | 0 => 1
  | n + 1 => gfMul (alphaPow n) 2

/-- The mask byte of a mask select (45_link_control.md R454). -/
abbrev maskByte (select : Nat) : BitVec 8 := if select = 1 then 0x96 else if select = 2 then 0x99 else 0x00

/-! ## Received bursts -/

/-- The burst given to RX_BURST (10_state.md R64). -/
abbrev received (s : State) : BitVec 264 := loadBuf 264 .burstIn s

/-- The received burst's center is within CTRL.SYNC_TOL of pattern k, and SYNC_TOL is legal (42_burst_rx.md R301). -/
abbrev SyncsTo (s : State) (k : Nat) : Prop :=
  k < 8 ∧ s.ctrl.syncTol.toNat ≤ 4 ∧ syncDistance (received s) k ≤ s.ctrl.syncTol.toNat

/-- No pattern is within CTRL.SYNC_TOL (42_burst_rx.md R301). -/
abbrev NoSync (s : State) : Prop :=
  ∀ k, k < 8 → s.ctrl.syncTol.toNat < syncDistance (received s) k

/-- ABORT_CNT after a sync burst: one more if reassembly was pending (42_burst_rx.md R307). -/
abbrev abortsWithSync (s : State) : Word :=
  if s.rx.abort = false ∧ s.rx.fragMask ≠ 0 ∧ (s.rx.pos = 1 ∨ s.rx.pos = 2 ∨ s.rx.pos = 3) then s.abortCnt + 1
  else s.abortCnt

/-- The position after one more burst without a sync (42_burst_rx.md R306). -/
abbrev nextPosition (s : State) : Nat := if s.rx.pos.toNat ≤ 4 then s.rx.pos.toNat + 1 else 7

/-- The LCSS expected at a position B to E (41_burst_tx.md R236). -/
abbrev expectedLcss (p : Nat) : BitVec 2 := if p = 1 then 1 else if p = 4 then 2 else 3

/-- The fragments after the fragment of the received burst is stored at position p (42_burst_rx.md R308). -/
abbrev fragmentsWith (s : State) (p : Nat) : BitVec 128 :=
  setBits (loadBuf 128 .rxFrag s) (32 * (p - 1)) (embDataOf (received s))

/-- RX_FRAG and FRAGMASK fit together (10_state.md R62, 42_burst_rx.md R308): a fragment not held is zero, and a
fragment is held only of a position already reached. -/
abbrev FragmentsFit (s : State) : Prop :=
  ∀ k, k < 4 →
    (s.rx.fragMask.getLsbD k = false → bits (loadBuf 128 .rxFrag s) (32 * k) 32 = 0) ∧
      (s.rx.fragMask.getLsbD k = true → k + 1 ≤ s.rx.pos.toNat)

/-- LC_ACT and EMB_TX are those of the active context (10_state.md R59, 41_burst_tx.md R238). -/
abbrev LatchFits (s : State) : Prop :=
  loadBuf 72 .lcAct s = buildLc s.act ∧ loadBuf 128 .embTx s = embEncode (buildLc s.act)

/-- The commands of one superframe and its terminator: A to F, then the terminator (42_burst_rx.md R312). -/
abbrev superframeCommand (n : Nat) : Instr := if n < 6 then .txVoice else .txTerm

/-- A burst looped back, from state s to state u: the host puts v in VOICE_IN, the command i builds the burst b, and
the host gives b unchanged to RX_BURST. -/
abbrev LoopedBack (i : Instr) (v : BitVec 216) (s : State) (b : BitVec 264) (u : State) : Prop :=
  ∃ t, exec i (storeBuf .voiceIn v s) = .next t ∧ b = loadBuf 264 .burstOut t ∧
    exec .rxBurst (storeBuf .burstIn b t) = .next u

/-- The delivered event clears STATUS bit k: the reset input, a W1C write of that bit, or SOFT_RESET. -/
abbrev ClearsStatusBit (e : HostEvent) (k : Nat) : Prop :=
  e = .rst true ∨ (∃ v, e = .txn (.write 0x008 4 v) ∧ v.getLsbD k = true) ∨ e = .txn (.write 0x00C 4 0x00000001)

end Sys2Proof.Claims

open Sys2Proof Sys2Proof.Machine Sys2Proof.Claims

/-! ## Encoding -/

/-- Decoding and encoding agree in both directions: every well-formed command is read back from its word, and every
word that decodes is the word of the command it decodes to (30_encoding.md R150, R151). -/
def Obligations.DecodeAndEncodeAgree : Prop :=
  (∀ i : Instr, i.wellFormed = true → decode (encode i) = .ok i) ∧
    ∀ (v : Word) (i : Instr), decode v = .ok i → i.wellFormed = true ∧ encode i = v

/-- The legal words are exactly those that decode, and any other word raises ILLEGAL_CMD and changes nothing but
STATUS and RESULT (30_encoding.md R151). -/
def Obligations.IllegalWordsRaiseIllegalCmd : Prop :=
  ∀ v : Word, (LegalWord v ↔ ∃ i, decode v = .ok i) ∧
    ∀ s : State, ¬ LegalWord v → executeWord v s = .next (afterError 1 s)

/-- The opcode map (30_encoding.md R153): the word of every mnemonic, every legal ARG, and the reserved OP values. -/
def Obligations.OpcodeMapDecodes : Prop :=
  (decode 0x00000000 = .ok .nop ∧ decode 0x00000001 = .ok .softReset ∧ decode 0x00000002 = .ok .clrCnt ∧
    decode 0x00000010 = .ok .h15Enc ∧ decode 0x00000011 = .ok .h15Dec ∧ decode 0x00000012 = .ok .h13Enc ∧
    decode 0x00000013 = .ok .h13Dec ∧ decode 0x00000014 = .ok .h16Enc ∧ decode 0x00000015 = .ok .h16Dec ∧
    decode 0x00000016 = .ok .qrEnc ∧ decode 0x00000017 = .ok .qrDec ∧ decode 0x00000018 = .ok .golEnc ∧
    decode 0x00000019 = .ok .golDec ∧ decode 0x00000020 = .ok .bptcEnc ∧ decode 0x00000021 = .ok .bptcDec ∧
    decode 0x00000022 = .ok .embEnc ∧ decode 0x00000023 = .ok .embDec ∧ decode 0x00000030 = .ok .callStart ∧
    decode 0x00000031 = .ok .txHdr ∧ decode 0x00000032 = .ok .txVoice ∧ decode 0x00000033 = .ok .txTerm ∧
    decode 0x00000040 = .ok .rxBurst ∧ decode 0x00000041 = .ok .rxReset ∧ decode 0x00000050 = .ok .lcBuild ∧
    decode 0x00000053 = .ok .cs5) ∧
  (∀ n, n ≤ 11 → decode (BitVec.ofNat 32 (0x34 + 256 * n)) = .ok (.txData (BitVec.ofNat 4 n))) ∧
  (∀ n, n ≤ 2 → decode (BitVec.ofNat 32 (0x51 + 256 * n)) = .ok (.rsEnc (BitVec.ofNat 4 n)) ∧
    decode (BitVec.ofNat 32 (0x52 + 256 * n)) = .ok (.rsChk (BitVec.ofNat 4 n))) ∧
  ∀ op, ReservedOp op → op ≤ 0xFF → decode (BitVec.ofNat 32 op) = .error .reservedOpcode

/-! ## Steps and the bus -/

/-- A write of a command's word to CMD runs that command: the step takes the host's transaction off the list and is
the meaning of the command (30_encoding.md R152; the list of host events is the model's, log 1, log 2). -/
def Obligations.StepRunsTheDecodedCommand : Prop :=
  ∀ (s : State) (rest : List HostEvent) (v : Word) (i : Instr),
    s.inputs = .txn (.write 0x00C 4 v) :: rest → s.rst = false → decode v = .ok i →
      step s = exec i { s with inputs := rest, response := none }

/-- What a step does with no event, with a change of the reset input, and with a transaction during reset
(70_reset_and_hazards.md R551, 60_exceptions.md R515; the list of host events is the model's, log 1, log 3). -/
def Obligations.StepHandlesResetInputAndIdle : Prop :=
  ∀ (s : State) (rest : List HostEvent),
    (s.inputs = [] → step s = .next s) ∧
    (s.inputs = .rst true :: rest → step s = .next { State.reset with rst := true, inputs := rest }) ∧
    (s.inputs = .rst false :: rest → step s = .next { s with rst := false, inputs := rest, response := none }) ∧
    ∀ t, s.inputs = .txn t :: rest → s.rst = true → step s = .next { s with inputs := rest, response := none }

/-- No step stops: every transaction completes and every error is recorded and passed (20_memory.md R114,
60_exceptions.md). -/
def Obligations.NoStepStops : Prop := ∀ s : State, ∃ t, step s = .next t

/-- Register reads (20_memory.md R110): a word read at each of the 17 register offsets returns that register's word and
changes nothing; CMD reads 0; any other read in the register range raises BUS and returns 0. -/
def Obligations.RegisterReads : Prop :=
  (∀ (s : State) (r : Reg) (a : Offset) (w : Word), (r, a, w) ∈ registerTable s →
    transact (.read a 4) s = .next { s with response := some w } ∧ regOffset r = a ∧ readReg s r = w) ∧
  ∀ (s : State) (a : Offset) (width : Nat), a.toNat ≤ 0x043 → ¬ (width = 4 ∧ a.toNat % 4 = 0) →
    transact (.read a width) s = .next { afterBusError s with response := some 0 }

/-- The fields of every register word at the bits of its table, every reserved bit 0, and the three values of
SYNC_ORIGIN: 0 base station, 1 mobile station, 2 direct mode (10_state.md sections 2 to 4). -/
def Obligations.RegisterWordsHoldTheirFields : Prop :=
  (syncOriginCode .bs = 0 ∧ syncOriginCode .ms = 1 ∧ syncOriginCode .direct = 2) ∧ ∀ s : State,
    ((ctrlWord s.ctrl).extractLsb' 0 2 = syncOriginCode s.ctrl.syncOrigin ∧
      (ctrlWord s.ctrl).extractLsb' 4 3 = s.ctrl.syncTol ∧ (ctrlWord s.ctrl).getLsbD 8 = s.ctrl.ieDone ∧
      (ctrlWord s.ctrl).getLsbD 9 = s.ctrl.ieErr ∧ (ctrlWord s.ctrl).getLsbD 10 = s.ctrl.ieLc ∧
      ctrlWord s.ctrl &&& 0xFFFFF88C = 0) ∧
    ((statusWord s.status).getLsbD 0 = s.status.done ∧ (statusWord s.status).getLsbD 1 = s.status.err ∧
      (statusWord s.status).getLsbD 2 = s.status.lcEv ∧ (statusWord s.status).extractLsb' 4 3 = s.status.errCode ∧
      statusWord s.status &&& 0xFFFFFF88 = 0) ∧
    ((resultWord s.result).getLsbD 0 = s.result.corr ∧ (resultWord s.result).getLsbD 1 = s.result.uncorr ∧
      (resultWord s.result).getLsbD 2 = s.result.lc ∧ (resultWord s.result).getLsbD 3 = s.result.pl ∧
      (resultWord s.result).extractLsb' 4 4 = s.result.rxClass ∧
      (resultWord s.result).extractLsb' 8 8 = s.result.ncorr ∧ resultWord s.result &&& 0xFFFF0000 = 0) ∧
    ((cfgWord s.ctx).extractLsb' 0 4 = s.ctx.cc ∧ (cfgWord s.ctx).getLsbD 8 = s.ctx.ts ∧
      (cfgWord s.ctx).getLsbD 16 = s.ctx.priv ∧ cfgWord s.ctx &&& 0xFFFEFEF0 = 0 ∧
      dstWord s.ctx = s.ctx.dst.setWidth 32 ∧ srcWord s.ctx = s.ctx.src.setWidth 32 ∧
      (optWord s.ctx).extractLsb' 0 8 = s.ctx.fid ∧ (optWord s.ctx).extractLsb' 8 8 = s.ctx.so ∧
      optWord s.ctx &&& 0xFFFF0000 = 0) ∧
    ((txStateWord s.tx).extractLsb' 0 3 = s.tx.pos ∧ (txStateWord s.tx).getLsbD 8 = s.tx.active ∧
      txStateWord s.tx &&& 0xFFFFFEF8 = 0) ∧
    ((rxStateWord s.rx).extractLsb' 0 3 = s.rx.pos ∧ (rxStateWord s.rx).getLsbD 3 = s.rx.abort ∧
      (rxStateWord s.rx).extractLsb' 4 4 = s.rx.fragMask ∧ (rxStateWord s.rx).extractLsb' 8 4 = s.rx.cc ∧
      (rxStateWord s.rx).getLsbD 12 = s.rx.pi ∧ (rxStateWord s.rx).extractLsb' 13 2 = s.rx.lcss ∧
      (rxStateWord s.rx).extractLsb' 16 4 = s.rx.dt ∧ (rxStateWord s.rx).extractLsb' 20 3 = s.rx.syncId ∧
      rxStateWord s.rx &&& 0xFF808000 = 0)

/-- Register writes (20_memory.md R111), one clause for each register. -/
def Obligations.RegisterWrites : Prop :=
  ∀ (s : State) (v : Word),
    (∃ c : Ctrl, transact (.write 0x004 4 v) s = .next { s with ctrl := c } ∧
      syncOriginCode c.syncOrigin =
        (if v.extractLsb' 0 2 = 3 then syncOriginCode s.ctrl.syncOrigin else v.extractLsb' 0 2) ∧
      c.syncTol.toNat = min (v.extractLsb' 4 3).toNat 4 ∧ c.ieDone = v.getLsbD 8 ∧ c.ieErr = v.getLsbD 9 ∧
      c.ieLc = v.getLsbD 10) ∧
    transact (.write 0x008 4 v) s = .next { s with status :=
      { done := if v.getLsbD 0 then false else s.status.done
        err := if v.getLsbD 1 then false else s.status.err
        lcEv := if v.getLsbD 2 then false else s.status.lcEv
        errCode := if v.getLsbD 1 then 0 else s.status.errCode } } ∧
    transact (.write 0x00C 4 v) s = executeWord v s ∧
    (∃ c : Context, transact (.write 0x010 4 v) s = .next { s with ctx := c } ∧
      cfgWord c = v &&& 0x0001010F ∧ dstWord c = dstWord s.ctx ∧ srcWord c = srcWord s.ctx ∧ optWord c = optWord s.ctx) ∧
    (∃ c : Context, transact (.write 0x014 4 v) s = .next { s with ctx := c } ∧
      dstWord c = v &&& 0x00FFFFFF ∧ cfgWord c = cfgWord s.ctx ∧ srcWord c = srcWord s.ctx ∧ optWord c = optWord s.ctx) ∧
    (∃ c : Context, transact (.write 0x018 4 v) s = .next { s with ctx := c } ∧
      srcWord c = v &&& 0x00FFFFFF ∧ cfgWord c = cfgWord s.ctx ∧ dstWord c = dstWord s.ctx ∧ optWord c = optWord s.ctx) ∧
    (∃ c : Context, transact (.write 0x01C 4 v) s = .next { s with ctx := c } ∧
      optWord c = v &&& 0x0000FFFF ∧ cfgWord c = cfgWord s.ctx ∧ dstWord c = dstWord s.ctx ∧ srcWord c = srcWord s.ctx) ∧
    ∀ a ∈ readOnlyRegs, transact (.write a 4 v) s = .next (afterBusError s)

/-- Bus errors (20_memory.md R114): a transaction that is not admitted, and a write to a read-only register or
buffer, changes nothing but STATUS.ERR and, if ERR was 0, ERRCODE; a read returns 0; every transaction completes. -/
def Obligations.BusErrors : Prop :=
  ∀ (s : State) (a : Offset) (width : Nat) (v : Word),
    (NotAdmitted a.toNat width →
      transact (.read a width) s = .next { afterBusError s with response := some 0 } ∧
        transact (.write a width v) s = .next (afterBusError s)) ∧
    (a ∈ readOnlyRegs → transact (.write a 4 v) s = .next (afterBusError s)) ∧
    (ReadOnlyByte a.toNat → transact (.write a 1 v) s = .next (afterBusError s)) ∧
    ∀ t : Txn, ∃ u, transact t s = .next u

/-- Buffer bytes (20_memory.md R112, R113): a byte read at a buffer offset returns the byte, as the low 8 bits of the
response, and changes nothing; a byte write to DATA_IN, BURST_IN or VOICE_IN sets that byte to v[7:0] and changes
nothing else; to any other buffer it raises BUS. Each buffer stands at its offsets, its byte 0 first. What the response
holds above the byte is the model's choice (log 2), and nothing is claimed of it. -/
def Obligations.BufferBytesReadAndWritten : Prop :=
  (∀ (b : Buf) (start len : Nat), (b, start, len) ∈ bufferTable →
    bufStart b = start ∧ bufLen b = len ∧ (∀ a, inBuf b a = decide (start ≤ a ∧ a < start + len)) ∧
      ∀ (s : State) (k : Nat), k < len → byteAt (loadBuf (8 * len) b s) k = memRead s.mem (start + k)) ∧
  ∀ (s : State) (a : Offset) (v : Word),
    (WritableByte a.toNat ∨ ReadOnlyByte a.toNat →
      ∃ r : Word, transact (.read a 1) s = .next { s with response := some r } ∧
        r.extractLsb' 0 8 = memRead s.mem a.toNat) ∧
    (WritableByte a.toNat → ∃ m : Mem, transact (.write a 1 v) s = .next { s with mem := m } ∧
      memRead m a.toNat = v.extractLsb' 0 8 ∧ ∀ x, x ≠ a.toNat → memRead m x = memRead s.mem x) ∧
    (ReadOnlyByte a.toNat → transact (.write a 1 v) s = .next (afterBusError s))

/-! ## Errors, interrupt, reset -/

/-- Which commands raise which errors (60_exceptions.md R501): a word that is not legal raises ILLEGAL_CMD, a command
the error of its row, and nothing else is an error: ERR and ERRCODE stay (but under SOFT_RESET, which resets them). -/
def Obligations.CommandErrorsAreExactlyThese : Prop :=
  ∀ (s : State) (v : Word),
    (¬ LegalWord v → executeWord v s = .next (afterError 1 s)) ∧
    ∀ i, decode v = .ok i →
      (∀ code, raisedBy i s = some code → executeWord v s = .next (afterError code s)) ∧
      (raisedBy i s = none → ∃ t, executeWord v s = .next t ∧ t.status.done = true ∧
        (i ≠ .softReset → t.status.err = s.status.err ∧ t.status.errCode = s.status.errCode))

/-- The STATUS bits stay until the host or a reset clears them: DONE, LC_EV, and ERR with its first ERRCODE
(60_exceptions.md sections 1 to 3). -/
def Obligations.StatusBitsStayUntilCleared : Prop :=
  ∀ (s t : State) (e : HostEvent) (rest : List HostEvent), s.inputs = e :: rest → step s = .next t →
    (s.status.done = true → ¬ ClearsStatusBit e 0 → t.status.done = true) ∧
    (s.status.lcEv = true → ¬ ClearsStatusBit e 2 → t.status.lcEv = true) ∧
    (s.status.err = true → ¬ ClearsStatusBit e 1 → t.status.err = true ∧ t.status.errCode = s.status.errCode)

/-- IRQ from the words of STATUS and CTRL (10_state.md R66). -/
def Obligations.IrqIsEnabledStatus : Prop :=
  ∀ s : State, irq s = decide ((statusWord s.status &&& (ctrlWord s.ctrl >>> 8)) &&& 0x7 ≠ 0)

/-- The reset values (10_state.md R68). -/
def Obligations.ResetValues : Prop :=
  readReg State.reset .id = 0x01444D52 ∧ readReg State.reset .ctrl = 0 ∧ readReg State.reset .status = 0 ∧
    readReg State.reset .result = 0 ∧ readReg State.reset .ctxCfg = 0 ∧ readReg State.reset .ctxDst = 0 ∧
    readReg State.reset .ctxSrc = 0 ∧ readReg State.reset .ctxOpt = 0 ∧ readReg State.reset .actCfg = 0 ∧
    readReg State.reset .actDst = 0 ∧ readReg State.reset .actSrc = 0 ∧ readReg State.reset .actOpt = 0 ∧
    readReg State.reset .txState = 0 ∧ readReg State.reset .rxState = 0x00000007 ∧
    readReg State.reset .fecFailCnt = 0 ∧ readReg State.reset .abortCnt = 0 ∧
    (∀ a, memRead State.reset.mem a = 0x00) ∧ irq State.reset = false ∧ ¬ ValidContext State.reset.ctx

/-- SOFT_RESET is the reset input asserted and deasserted, and then DONE (70_reset_and_hazards.md R552); it always
completes. -/
def Obligations.SoftResetIsResetAndDone : Prop :=
  ∀ s : State, s.rst = false → ∃ u t, deliver (.rst true) s = .next u ∧ deliver (.rst false) u = .next t ∧
    exec .softReset s = .next { t with status := { t.status with done := true } } ∧
    readReg { t with status := { t.status with done := true } } .status = 0x00000001

/-- NOP, CLR_CNT and RX_RESET complete in every state with exactly their effects (40_control.md, 42_burst_rx.md section 2). -/
def Obligations.ControlCommandsComplete : Prop :=
  ∀ s : State,
    exec .nop s = .next { s with result := clearedResult, status := { s.status with done := true } } ∧
    exec .clrCnt s = .next { s with
      result := clearedResult, status := { s.status with done := true }, fecFailCnt := 0, abortCnt := 0 } ∧
    ∃ t, exec .rxReset s = .next t ∧ HostSideSame s t ∧ TxSame s t ∧ OnlyDoneSet s t ∧ t.result = clearedResult ∧
      t.rx = { s.rx with pos := 7, abort := false, fragMask := 0 } ∧ t.fecFailCnt = s.fecFailCnt ∧
      t.abortCnt = s.abortCnt ∧ loadBuf 128 .rxFrag t = 0 ∧ MemSameOutside [.rxFrag] s t

/-! ## Block codes -/

/-- H15_ENC writes the Hamming(15,11,3) codeword, equation by equation, and the code has minimum distance 3
(43_fec_block.md R351). -/
def Obligations.H15EncWritesTheCodeword : Prop :=
  (∀ s : State, ∃ t, exec .h15Enc s = .next t ∧ DataCommandFrame s t ∧ t.result = clearedResult ∧
    ∃ (d c : Nat → Bool), d = (loadBuf 256 .dataIn s).getMsbD ∧ c = (loadBuf 256 .dataOut t).getMsbD ∧
      (∀ i, i < 11 → c i = d i) ∧
      c 11 = (d 0 ^^ d 1 ^^ d 2 ^^ d 3 ^^ d 5 ^^ d 7 ^^ d 8) ∧
      c 12 = (d 1 ^^ d 2 ^^ d 3 ^^ d 4 ^^ d 6 ^^ d 8 ^^ d 9) ∧
      c 13 = (d 2 ^^ d 3 ^^ d 4 ^^ d 5 ^^ d 7 ^^ d 9 ^^ d 10) ∧
      c 14 = (d 0 ^^ d 1 ^^ d 2 ^^ d 4 ^^ d 6 ^^ d 7 ^^ d 10) ∧
      ∀ i, 15 ≤ i → c i = false) ∧
  (∀ d e : BitVec 11, d ≠ e → 3 ≤ dist (h15Encode d) (h15Encode e)) ∧ ∃ d e, dist (h15Encode d) (h15Encode e) = 3

/-- H13_ENC writes the Hamming(13,9,3) codeword, equation by equation, and the code has minimum distance 3
(43_fec_block.md R353). -/
def Obligations.H13EncWritesTheCodeword : Prop :=
  (∀ s : State, ∃ t, exec .h13Enc s = .next t ∧ DataCommandFrame s t ∧ t.result = clearedResult ∧
    ∃ (d c : Nat → Bool), d = (loadBuf 256 .dataIn s).getMsbD ∧ c = (loadBuf 256 .dataOut t).getMsbD ∧
      (∀ i, i < 9 → c i = d i) ∧
      c 9 = (d 0 ^^ d 1 ^^ d 3 ^^ d 5 ^^ d 6) ∧
      c 10 = (d 0 ^^ d 1 ^^ d 2 ^^ d 4 ^^ d 6 ^^ d 7) ∧
      c 11 = (d 0 ^^ d 1 ^^ d 2 ^^ d 3 ^^ d 5 ^^ d 7 ^^ d 8) ∧
      c 12 = (d 0 ^^ d 2 ^^ d 4 ^^ d 5 ^^ d 8) ∧
      ∀ i, 13 ≤ i → c i = false) ∧
  (∀ d e : BitVec 9, d ≠ e → 3 ≤ dist (h13Encode d) (h13Encode e)) ∧ ∃ d e, dist (h13Encode d) (h13Encode e) = 3

/-- H16_ENC writes the Hamming(16,11,4) codeword, equation by equation, and the code has minimum distance 4
(43_fec_block.md R355). -/
def Obligations.H16EncWritesTheCodeword : Prop :=
  (∀ s : State, ∃ t, exec .h16Enc s = .next t ∧ DataCommandFrame s t ∧ t.result = clearedResult ∧
    ∃ (d c : Nat → Bool), d = (loadBuf 256 .dataIn s).getMsbD ∧ c = (loadBuf 256 .dataOut t).getMsbD ∧
      (∀ i, i < 11 → c i = d i) ∧
      c 11 = (d 0 ^^ d 1 ^^ d 2 ^^ d 3 ^^ d 5 ^^ d 7 ^^ d 8) ∧
      c 12 = (d 1 ^^ d 2 ^^ d 3 ^^ d 4 ^^ d 6 ^^ d 8 ^^ d 9) ∧
      c 13 = (d 2 ^^ d 3 ^^ d 4 ^^ d 5 ^^ d 7 ^^ d 9 ^^ d 10) ∧
      c 14 = (d 0 ^^ d 1 ^^ d 2 ^^ d 4 ^^ d 6 ^^ d 7 ^^ d 10) ∧
      c 15 = (d 0 ^^ d 2 ^^ d 5 ^^ d 6 ^^ d 8 ^^ d 9 ^^ d 10) ∧
      ∀ i, 16 ≤ i → c i = false) ∧
  (∀ d e : BitVec 11, d ≠ e → 4 ≤ dist (h16Encode d) (h16Encode e)) ∧ ∃ d e, dist (h16Encode d) (h16Encode e) = 4

/-- H15_DEC returns the data of every codeword with at most one bit flipped, and never reports UNCORR
(43_fec_block.md sections 2 and 5). -/
def Obligations.H15DecCorrectsOneError : Prop :=
  ∀ s : State, ∃ t, exec .h15Dec s = .next t ∧ DataCommandFrame s t ∧ t.result.uncorr = false ∧
    ∀ d : BitVec 11,
      (bits (loadBuf 256 .dataIn s) 0 15 = h15Encode d → Delivers t d (decodedResult 0)) ∧
      ∀ i, i < 15 → bits (loadBuf 256 .dataIn s) 0 15 = flipBit (h15Encode d) i → Delivers t d (decodedResult 1)

/-- H13_DEC returns the data of every codeword with at most one bit flipped, and FAIL for every word farther from
all codewords (43_fec_block.md sections 2 and 5). -/
def Obligations.H13DecCorrectsOneErrorElseFails : Prop :=
  ∀ s : State, ∃ t, exec .h13Dec s = .next t ∧ DataCommandFrame s t ∧
    (∀ d : BitVec 9,
      (bits (loadBuf 256 .dataIn s) 0 13 = h13Encode d → Delivers t d (decodedResult 0)) ∧
      ∀ i, i < 13 → bits (loadBuf 256 .dataIn s) 0 13 = flipBit (h13Encode d) i → Delivers t d (decodedResult 1)) ∧
    ((∀ d : BitVec 9, 2 ≤ dist (bits (loadBuf 256 .dataIn s) 0 13) (h13Encode d)) → Delivers t 0#9 failedResult)

/-- H16_DEC corrects every single error and reports every double error as FAIL (43_fec_block.md sections 2 and 5). -/
def Obligations.H16DecCorrectsOneDetectsTwo : Prop :=
  ∀ s : State, ∃ t, exec .h16Dec s = .next t ∧ DataCommandFrame s t ∧
    (∀ d : BitVec 11,
      (bits (loadBuf 256 .dataIn s) 0 16 = h16Encode d → Delivers t d (decodedResult 0)) ∧
      (∀ i, i < 16 → bits (loadBuf 256 .dataIn s) 0 16 = flipBit (h16Encode d) i → Delivers t d (decodedResult 1)) ∧
      ∀ i j, i < 16 → j < 16 → i ≠ j →
        bits (loadBuf 256 .dataIn s) 0 16 = flipBit (flipBit (h16Encode d) i) j → Delivers t 0#11 failedResult)

/-- QR_ENC writes the systematic codeword: its first 15 bits are a multiple of 0x139 as a binary polynomial, its
weight is even, and the code has minimum distance 6 (43_fec_block.md sections 3 and 5). -/
def Obligations.QrEncWritesTheCodeword : Prop :=
  (∀ s : State, ∃ t, exec .qrEnc s = .next t ∧ DataCommandFrame s t ∧
    ∃ c : BitVec 16, Delivers t c clearedResult ∧ bits c 0 7 = bits (loadBuf 256 .dataIn s) 0 7 ∧
      (∃ q, polyMul 0x139 q 7 = (bits c 0 15).toNat) ∧ wt c % 2 = 0) ∧
  (∀ v w : BitVec 7, v ≠ w → 6 ≤ dist (qrEncode v) (qrEncode w)) ∧ ∃ v w, dist (qrEncode v) (qrEncode w) = 6

/-- GOL_ENC writes the systematic codeword: its first 19 bits are a multiple of 0xC75 as a binary polynomial, its
weight is even, and the code has minimum distance 8 (43_fec_block.md sections 4 and 5). -/
def Obligations.GolEncWritesTheCodeword : Prop :=
  (∀ s : State, ∃ t, exec .golEnc s = .next t ∧ DataCommandFrame s t ∧
    ∃ c : BitVec 20, Delivers t c clearedResult ∧ bits c 0 8 = bits (loadBuf 256 .dataIn s) 0 8 ∧
      (∃ q, polyMul 0xC75 q 8 = (bits c 0 19).toNat) ∧ wt c % 2 = 0) ∧
  (∀ v w : BitVec 8, v ≠ w → 8 ≤ dist (golayEncode v) (golayEncode w)) ∧
  ∃ v w, dist (golayEncode v) (golayEncode w) = 8

/-- QR_DEC decodes within radius 2 and fails outside it; every word at distance 3 from a codeword fails
(43_fec_block.md R358). -/
def Obligations.QrDecDecodesWithinTwo : Prop :=
  ∀ s : State, ∃ t, exec .qrDec s = .next t ∧ DataCommandFrame s t ∧
    ∃ w : BitVec 16, w = bits (loadBuf 256 .dataIn s) 0 16 ∧
      (∀ v : BitVec 7, dist w (qrEncode v) ≤ 2 → Delivers t v (decodedResult (dist w (qrEncode v)))) ∧
      ((∀ v : BitVec 7, 2 < dist w (qrEncode v)) → Delivers t 0#7 failedResult) ∧
      ∀ v : BitVec 7, dist w (qrEncode v) = 3 → Delivers t 0#7 failedResult

/-- GOL_DEC decodes within radius 3 and fails outside it; every word at distance 4 from a codeword fails
(43_fec_block.md R360). -/
def Obligations.GolDecDecodesWithinThree : Prop :=
  ∀ s : State, ∃ t, exec .golDec s = .next t ∧ DataCommandFrame s t ∧
    ∃ w : BitVec 20, w = bits (loadBuf 256 .dataIn s) 0 20 ∧
      (∀ v : BitVec 8, dist w (golayEncode v) ≤ 3 → Delivers t v (decodedResult (dist w (golayEncode v)))) ∧
      ((∀ v : BitVec 8, 3 < dist w (golayEncode v)) → Delivers t 0#8 failedResult) ∧
      ∀ v : BitVec 8, dist w (golayEncode v) = 4 → Delivers t 0#8 failedResult

/-! ## Product codes -/

/-- BPTC_ENC writes the product codeword: with D[a] = X[(a · 181) mod 196], the information bits stand at INFOPOS,
D[0..3] are 0, every row 0..12 is a Hamming(15,11) and every column a Hamming(13,9) codeword (44_fec_bptc.md section 1). -/
def Obligations.BptcEncWritesTheProductCodeword : Prop :=
  ∀ s : State, ∃ t, exec .bptcEnc s = .next t ∧ DataCommandFrame s t ∧ t.result = clearedResult ∧
    ∃ (x i d : Nat → Bool), x = (loadBuf 256 .dataOut t).getMsbD ∧ i = (loadBuf 256 .dataIn s).getMsbD ∧
      d = (fun a => x (a * 181 % 196)) ∧ (∀ a, a < 4 → d a = false) ∧ (∀ j, j < 8 → d (4 + j) = i j) ∧
      (∀ r k, 1 ≤ r → r ≤ 8 → k < 11 → d (1 + 15 * r + k) = i (8 + 11 * (r - 1) + k)) ∧
      (∀ r, r < 13 → hamSyndrome (mkBits 15 fun c => d (1 + 15 * r + c)) 11 h15Eqs = 0) ∧
      (∀ c, c < 15 → hamSyndrome (mkBits 13 fun a => d (1 + c + 15 * a)) 9 h13Eqs = 0) ∧
      ∀ k, 196 ≤ k → x k = false

/-- The BPTC decoder acts on the error pattern alone: adding a codeword to the received word adds its information
to the result and changes no outcome (44_fec_bptc.md section 1). -/
def Obligations.BptcDecDependsOnTheErrorAlone : Prop :=
  ∀ (x : BitVec 196) (i : BitVec 96),
    (bptcDecode (x ^^^ bptcEncode i)).2 = (bptcDecode x).2 ∧
      ((bptcDecode x).2 ≠ .fail → (bptcDecode (x ^^^ bptcEncode i)).1 = (bptcDecode x).1 ^^^ i)

/-- BPTC_DEC returns the information of every codeword with at most one bit flipped: CORRECTED(1), or OK where the
flipped bit is X[0] (44_fec_bptc.md section 1). -/
def Obligations.BptcDecCorrectsEverySingleError : Prop :=
  ∀ s : State, ∃ t, exec .bptcDec s = .next t ∧ DataCommandFrame s t ∧
    ∀ i : BitVec 96,
      (bits (loadBuf 256 .dataIn s) 0 196 = bptcEncode i → Delivers t i (decodedResult 0)) ∧
      (bits (loadBuf 256 .dataIn s) 0 196 = flipBit (bptcEncode i) 0 → Delivers t i (decodedResult 0)) ∧
      ∀ k, 1 ≤ k → k < 196 → bits (loadBuf 256 .dataIn s) 0 196 = flipBit (bptcEncode i) k →
        Delivers t i (decodedResult 1)

/-- EMB_ENC writes the embedded LC codeword: with m[p] = E[8 (p mod 16) + p / 16], the LC bits stand at EMBINFO, the
checksum at EMBCS, rows 0..6 are Hamming(16,11) codewords and every column has even parity (44_fec_bptc.md section 2). -/
def Obligations.EmbEncWritesTheCodeword : Prop :=
  ∀ s : State, ∃ t, exec .embEnc s = .next t ∧ DataCommandFrame s t ∧ t.result = clearedResult ∧
    ∃ (e l m : Nat → Bool), e = (loadBuf 256 .dataOut t).getMsbD ∧ l = (loadBuf 256 .dataIn s).getMsbD ∧
      (∀ k, k < 128 → e k = m (k % 8 * 16 + k / 8)) ∧
      (∀ r c, r < 2 → c < 11 → m (16 * r + c) = l (11 * r + c)) ∧
      (∀ r c, 2 ≤ r → r ≤ 6 → c < 10 → m (16 * r + c) = l (22 + 10 * (r - 2) + c)) ∧
      (∀ j, j < 5 → m (42 + 16 * j) =
        (((List.range 9).map fun k => (memRead s.mem (0x100 + k)).toNat).sum % 31).testBit (4 - j)) ∧
      (∀ r, r < 7 → hamSyndrome (mkBits 16 fun c => m (16 * r + c)) 11 h16Eqs = 0) ∧
      (∀ c, c < 16 → parityOf (mkBits 8 fun r => m (16 * r + c)) (List.range 8) = false) ∧
      ∀ k, 128 ≤ k → e k = false

/-- EMB_DEC returns the LC of every codeword with at most one bit flipped (44_fec_bptc.md section 2). -/
def Obligations.EmbDecCorrectsEverySingleError : Prop :=
  ∀ s : State, ∃ t, exec .embDec s = .next t ∧ DataCommandFrame s t ∧
    ∀ l : BitVec 72,
      (bits (loadBuf 256 .dataIn s) 0 128 = embEncode l → Delivers t l (decodedResult 0)) ∧
      ∀ k, k < 128 → bits (loadBuf 256 .dataIn s) 0 128 = flipBit (embEncode l) k → Delivers t l (decodedResult 1)

/-- An LC comes out of the embedded LC decoder only from a word whose distance to that LC's codeword is the number of
bits it reports as changed (44_fec_bptc.md section 2). -/
def Obligations.EmbDecIsSound : Prop :=
  ∀ (e : BitVec 128) (l : BitVec 72),
    (embDecode e = (l, .ok) → e = embEncode l) ∧
      ∀ n, embDecode e = (l, .corrected n) → 0 < n ∧ dist e (embEncode l) = n

/-! ## Link control -/

/-- LC_BUILD lays out the LC of a valid shadow context byte by byte (45_link_control.md sections 1 and 3). -/
def Obligations.LcBuildWritesTheRecord : Prop :=
  ∀ s : State, ValidContext s.ctx → ∃ t, exec .lcBuild s = .next t ∧ DataCommandFrame s t ∧ t.result = clearedResult ∧
    ∃ b : Nat → Byte, b = (fun k => memRead t.mem (0x120 + k)) ∧
      b 0 = (if s.ctx.priv then 0x03 else 0x00) ∧ b 1 = s.ctx.fid ∧ b 2 = s.ctx.so ∧
      b 3 = s.ctx.dst.extractLsb' 16 8 ∧ b 4 = s.ctx.dst.extractLsb' 8 8 ∧ b 5 = s.ctx.dst.extractLsb' 0 8 ∧
      b 6 = s.ctx.src.extractLsb' 16 8 ∧ b 7 = s.ctx.src.extractLsb' 8 8 ∧ b 8 = s.ctx.src.extractLsb' 0 8 ∧
      ∀ k, 9 ≤ k → k < 32 → b k = 0

/-- GF(2^8): multiplication is bilinear, commutative and associative, 1 is its unit, doubling reduces by 0x11D, and α = 2 is
primitive with α^8 = 0x1D (45_link_control.md section 2). -/
def Obligations.GfMultiplication : Prop :=
  (∀ a b c : BitVec 8, gfMul (a ^^^ b) c = gfMul a c ^^^ gfMul b c ∧ gfMul a (b ^^^ c) = gfMul a b ^^^ gfMul a c) ∧
  (∀ a b : BitVec 8, gfMul a b = gfMul b a) ∧
  (∀ a b c : BitVec 8, gfMul (gfMul a b) c = gfMul a (gfMul b c)) ∧
  (∀ a : BitVec 8, gfMul a 1 = a ∧ gfMul 2 a = if a.msb then (a <<< 1) ^^^ 0x1D else a <<< 1) ∧
  alphaPow 8 = 0x1D ∧ alphaPow 255 = 1 ∧ ∀ n, 0 < n → n < 255 → alphaPow n ≠ 1

/-- RS_ENC copies the message and appends parity that, with the mask taken off, makes the codeword vanish at α, α^2
and α^3; a mask select above 2 raises ILLEGAL_CMD (45_link_control.md sections 2 and 3; that the command itself, not
only its word, raises the error is the model's reading, log 8). -/
def Obligations.RsEncParityVanishes : Prop :=
  (∀ (s : State) (mask : BitVec 4), 2 < mask.toNat → exec (.rsEnc mask) s = .next (afterError 1 s)) ∧
  ∀ (s : State) (mask : BitVec 4), mask.toNat ≤ 2 → ∃ t, exec (.rsEnc mask) s = .next t ∧ DataCommandFrame s t ∧
    t.result = clearedResult ∧
    bits (loadBuf 256 .dataOut t) 0 96 = fullLc (bits (loadBuf 256 .dataIn s) 0 72) mask.toNat ∧
    (∀ k, k < 9 → memRead t.mem (0x120 + k) = memRead s.mem (0x100 + k)) ∧
    (∀ k, 12 ≤ k → k < 32 → memRead t.mem (0x120 + k) = 0) ∧
    ∀ j, 1 ≤ j → j ≤ 3 → polyAt (alphaPow j)
      (((List.range 9).map fun k => memRead t.mem (0x120 + k)) ++
        (List.range 3).map fun k => memRead t.mem (0x129 + k) ^^^ maskByte mask.toNat) = 0

/-- RS_CHK passes the message on exactly when RS_ENC's parity stands behind it, and a Full LC changed in one byte, or
checked under another of the three masks, does not pass; an all-zero word passes under mask 0 alone; a mask select above 2 raises ILLEGAL_CMD (45_link_control.md sections 2 and
3; that the command itself, not only its word, raises the error is the model's reading, log 8). -/
def Obligations.RsChkAcceptsExactlyTheFullLc : Prop :=
  (∀ (s : State) (mask : BitVec 4), 2 < mask.toNat → exec (.rsChk mask) s = .next (afterError 1 s)) ∧
  (∀ (s : State) (mask : BitVec 4), mask.toNat ≤ 2 → ∃ t, exec (.rsChk mask) s = .next t ∧ DataCommandFrame s t ∧
    ∃ f : BitVec 96, f = bits (loadBuf 256 .dataIn s) 0 96 ∧
      (f = fullLc (bits f 0 72) mask.toNat → Delivers t (bits f 0 72) clearedResult) ∧
      (f ≠ fullLc (bits f 0 72) mask.toNat → Delivers t 0#72 failedResult)) ∧
  (∀ (l : BitVec 72) (select k : Nat) (e : BitVec 8), k < 12 → e ≠ 0 →
    rsCheck (setBits (fullLc l select) (8 * k) (byteAt (fullLc l select) k ^^^ e)) select = false) ∧
  (∀ (l : BitVec 72) (m n : Nat), m ≤ 2 → n ≤ 2 → m ≠ n → rsCheck (fullLc l m) n = false) ∧
  rsCheck 0 0 = true ∧ rsCheck 0 1 = false ∧ rsCheck 0 2 = false

/-- CS5 writes the sum of the nine bytes modulo 31 to byte 0 of DATA_OUT (45_link_control.md sections 2 and 3). -/
def Obligations.Cs5WritesTheChecksum : Prop :=
  ∀ s : State, ∃ t, exec .cs5 s = .next t ∧ DataCommandFrame s t ∧ t.result = clearedResult ∧
    (memRead t.mem 0x120).toNat = ((List.range 9).map fun k => (memRead s.mem (0x100 + k)).toNat).sum % 31 ∧
    ∀ k, 1 ≤ k → k < 32 → memRead t.mem (0x120 + k) = 0

/-! ## Transmit framer -/

/-- CALL_START with a valid shadow context latches it, with its LC and coded embedded LC, and starts the call at A
(41_burst_tx.md sections 2 and 3). -/
def Obligations.CallStartLatchesAndActivates : Prop :=
  ∀ s : State, ValidContext s.ctx → ∃ t, exec .callStart s = .next t ∧ HostSideSame s t ∧ RxSame s t ∧
    OnlyDoneSet s t ∧ t.result = clearedResult ∧ t.act = s.ctx ∧ t.tx = { pos := 0, active := true } ∧
    loadBuf 72 .lcAct t = buildLc s.ctx ∧ loadBuf 128 .embTx t = embEncode (buildLc s.ctx) ∧
    MemSameOutside [.lcAct, .embTx] s t

/-- TX_HDR and TX_TERM in an active call build the header and the terminator with the Full LC of LC_ACT under their
masks, field by field of the burst; TX_TERM ends the call (41_burst_tx.md sections 1 and 3). -/
def Obligations.HeaderAndTerminatorBursts : Prop :=
  ∀ s : State, s.tx.active = true →
    (∃ t, exec .txHdr s = .next t ∧ HostSideSame s t ∧ TxSame s t ∧ RxSame s t ∧ OnlyDoneSet s t ∧
      t.result = clearedResult ∧ MemSameOutside [.burstOut] s t ∧
      infoOf (loadBuf 264 .burstOut t) = bptcEncode (fullLc (loadBuf 72 .lcAct s) 1) ∧
      slotTypeOf (loadBuf 264 .burstOut t) = golayEncode (s.act.cc ++ 1#4) ∧
      centerOf (loadBuf 264 .burstOut t) = syncWord s.ctrl.syncOrigin true s.act.ts) ∧
    ∃ t, exec .txTerm s = .next t ∧ HostSideSame s t ∧ t.act = s.act ∧ RxSame s t ∧ OnlyDoneSet s t ∧
      t.result = clearedResult ∧ t.tx = { pos := 0, active := false } ∧ MemSameOutside [.burstOut] s t ∧
      infoOf (loadBuf 264 .burstOut t) = bptcEncode (fullLc (loadBuf 72 .lcAct s) 2) ∧
      slotTypeOf (loadBuf 264 .burstOut t) = golayEncode (s.act.cc ++ 2#4) ∧
      centerOf (loadBuf 264 .burstOut t) = syncWord s.ctrl.syncOrigin true s.act.ts

/-- TX_VOICE builds the voice burst of its position: at A it latches and sends the voice sync, at B to E the EMB and a
fragment, at F the EMB with zeros; the position advances modulo 6 (41_burst_tx.md sections 1 and 3). -/
def Obligations.VoiceBurstByPosition : Prop :=
  ∀ (s : State) (p : Nat), s.tx.active = true → s.tx.pos.toNat = p → p ≤ 5 → (p = 0 → ValidContext s.ctx) →
    ∃ t, exec .txVoice s = .next t ∧ HostSideSame s t ∧ RxSame s t ∧ OnlyDoneSet s t ∧ t.result = clearedResult ∧
      t.tx.active = true ∧ t.tx.pos.toNat = (p + 1) % 6 ∧
      voiceOf (loadBuf 264 .burstOut t) = loadBuf 216 .voiceIn s ∧
      (p = 0 → t.act = s.ctx ∧ loadBuf 72 .lcAct t = buildLc s.ctx ∧ loadBuf 128 .embTx t = embEncode (buildLc s.ctx) ∧
        centerOf (loadBuf 264 .burstOut t) = syncWord s.ctrl.syncOrigin false s.ctx.ts ∧
        MemSameOutside [.burstOut, .lcAct, .embTx] s t) ∧
      (1 ≤ p → t.act = s.act ∧ MemSameOutside [.burstOut] s t) ∧
      (1 ≤ p → p ≤ 4 →
        embOf (loadBuf 264 .burstOut t) = qrEncode (s.act.cc ++ 0#1 ++ expectedLcss p) ∧
        embDataOf (loadBuf 264 .burstOut t) = bits (loadBuf 128 .embTx s) (32 * (p - 1)) 32) ∧
      (p = 5 → embOf (loadBuf 264 .burstOut t) = qrEncode (s.act.cc ++ 0#1 ++ 0#2) ∧
        embDataOf (loadBuf 264 .burstOut t) = 0)

/-- TX_DATA with a data type 0..11 builds a data burst around DATA_IN's 196 bits from the shadow context, in any TX
state; with 12..15 it raises ILLEGAL_CMD (41_burst_tx.md section 3; that the command itself, not only its word,
raises the error is the model's reading, log 8). -/
def Obligations.TxDataBurst : Prop :=
  ∀ (s : State) (dt : BitVec 4),
    (dt.toNat ≤ 11 → ∃ t, exec (.txData dt) s = .next t ∧ HostSideSame s t ∧ TxSame s t ∧ RxSame s t ∧
      OnlyDoneSet s t ∧ t.result = clearedResult ∧ MemSameOutside [.burstOut] s t ∧
      infoOf (loadBuf 264 .burstOut t) = bits (loadBuf 256 .dataIn s) 0 196 ∧
      slotTypeOf (loadBuf 264 .burstOut t) = golayEncode (s.ctx.cc ++ dt) ∧
      centerOf (loadBuf 264 .burstOut t) = syncWord s.ctrl.syncOrigin true s.ctx.ts) ∧
    (11 < dt.toNat → exec (.txData dt) s = .next (afterError 1 s))

/-- The active context, LC_ACT and EMB_TX change only in CALL_START, in TX_VOICE at position A and under SOFT_RESET
(10_state.md section 3). -/
def Obligations.OnlyALatchChangesTheActiveContext : Prop :=
  ∀ (i : Instr) (s t : State), exec i s = .next t → i ≠ .softReset → i ≠ .callStart →
    ¬ (i = .txVoice ∧ s.tx.pos = 0) →
      t.act = s.act ∧ loadBuf 72 .lcAct t = loadBuf 72 .lcAct s ∧ loadBuf 128 .embTx t = loadBuf 128 .embTx s

/-! ## Invariants -/

/-- The buffer memory stays in its canonical form (the form is the model's, log 5). -/
def Obligations.StepKeepsMemoryCanonical : Prop :=
  ∀ s t : State, memWf s.mem = true → step s = .next t → memWf t.mem = true

/-- The register fields stay legal, and an active call has a valid active context (10_state.md sections 2 to 4). -/
def Obligations.StepKeepsRegistersLegal : Prop :=
  ∀ s t : State, LegalFields s ∧ LegalCall s → step s = .next t → LegalFields t ∧ LegalCall t

/-- LC_ACT and EMB_TX stay those of the active context (10_state.md section 3). -/
def Obligations.StepKeepsTheLatchedRecords : Prop :=
  ∀ s t : State, LatchFits s → step s = .next t → LatchFits t

/-- RX_FRAG and FRAGMASK keep fitting together (10_state.md section 4). -/
def Obligations.StepKeepsTheFragmentStore : Prop :=
  ∀ s t : State, FragmentsFit s → step s = .next t → FragmentsFit t

/-- The reset state meets the four invariants. -/
def Obligations.ResetMeetsTheInvariants : Prop :=
  memWf State.reset.mem = true ∧ LegalFields State.reset ∧ LegalCall State.reset ∧ LatchFits State.reset ∧
    FragmentsFit State.reset

/-! ## Receive deframer -/

/-- A burst whose center is within 4 of a pattern of the sync table matches that pattern's index and no other
(42_burst_rx.md section 1). -/
def Obligations.SyncMatchIsUnambiguous : Prop :=
  ∀ (b : BitVec 264) (k : Nat), k < 8 → syncDistance b k ≤ 4 → syncMatch (centerOf b) = (k, syncDistance b k)

/-- A burst with a voice sync (42_burst_rx.md section 1): position A, no fragments, the payload handed over. -/
def Obligations.RxVoiceSyncStartsASuperframe : Prop :=
  ∀ (s : State) (k : Nat), SyncsTo s k → k % 2 = 0 →
    ∃ t, exec .rxBurst s = .next t ∧ RxFrame [.voiceOut, .dataOut, .rxFrag] s t ∧ OnlyDoneSet s t ∧
      t.result = { clearedResult with pl := true, rxClass := 2 } ∧
      t.rx = { s.rx with syncId := BitVec.ofNat 3 k, pos := 0, abort := false, fragMask := 0 } ∧
      t.fecFailCnt = s.fecFailCnt ∧ t.abortCnt = abortsWithSync s ∧
      loadBuf 216 .voiceOut t = voiceOf (received s) ∧ loadBuf 256 .dataOut t = 0 ∧ loadBuf 128 .rxFrag t = 0

/-- A data burst whose slot type decodes to a type other than 1 and 2 (42_burst_rx.md section 1): its information
bits go to DATA_OUT as received. -/
def Obligations.RxRawDataHandedOver : Prop :=
  ∀ (s : State) (k : Nat) (cc dt : BitVec 4) (m : Nat), SyncsTo s k → k % 2 = 1 →
    m = dist (slotTypeOf (received s)) (golayEncode (cc ++ dt)) → m ≤ 3 → dt ≠ 1 → dt ≠ 2 →
    ∃ t, exec .rxBurst s = .next t ∧ RxFrame [.voiceOut, .dataOut, .rxFrag] s t ∧ OnlyDoneSet s t ∧
      t.result = { decodedResult m with pl := true, rxClass := 1 } ∧
      t.rx = { s.rx with syncId := BitVec.ofNat 3 k, pos := 7, abort := false, fragMask := 0, cc := cc, dt := dt } ∧
      t.fecFailCnt = s.fecFailCnt ∧ t.abortCnt = abortsWithSync s ∧
      loadBuf 256 .dataOut t = padTo 256 (infoOf (received s)) ∧ loadBuf 216 .voiceOut t = 0 ∧
      loadBuf 128 .rxFrag t = 0

/-- A data burst whose slot type is farther than 3 from every codeword is dropped: counted once, with no payload and
no LC event (42_burst_rx.md section 1). -/
def Obligations.RxUndecodableSlotTypeIsDropped : Prop :=
  ∀ (s : State) (k : Nat), SyncsTo s k → k % 2 = 1 →
    (∀ v : BitVec 8, 3 < dist (slotTypeOf (received s)) (golayEncode v)) →
    ∃ t, exec .rxBurst s = .next t ∧ RxFrame [.voiceOut, .dataOut, .rxFrag] s t ∧ OnlyDoneSet s t ∧
      t.result = { clearedResult with uncorr := true, rxClass := 4 } ∧
      t.rx = { s.rx with syncId := BitVec.ofNat 3 k, pos := 7, abort := false, fragMask := 0 } ∧
      t.fecFailCnt = s.fecFailCnt + 1 ∧ t.abortCnt = abortsWithSync s ∧
      loadBuf 256 .dataOut t = 0 ∧ loadBuf 216 .voiceOut t = 0 ∧ loadBuf 128 .rxFrag t = 0

/-- A header or terminator (42_burst_rx.md section 1): the LC is surfaced exactly when the product code decodes and
the RS parity matches under the data type's mask; otherwise the burst is dropped. -/
def Obligations.RxFullLcSurfacesOnlyChecked : Prop :=
  ∀ (s : State) (k : Nat) (cc dt : BitVec 4) (m : Nat), SyncsTo s k → k % 2 = 1 →
    m = dist (slotTypeOf (received s)) (golayEncode (cc ++ dt)) → m ≤ 3 → (dt = 1 ∨ dt = 2) →
    ∃ t, exec .rxBurst s = .next t ∧ RxFrame [.voiceOut, .dataOut, .rxFrag, .rxLc] s t ∧
      t.rx = { s.rx with syncId := BitVec.ofNat 3 k, pos := 7, abort := false, fragMask := 0, cc := cc, dt := dt } ∧
      t.abortCnt = abortsWithSync s ∧ loadBuf 256 .dataOut t = 0 ∧ loadBuf 216 .voiceOut t = 0 ∧
      loadBuf 128 .rxFrag t = 0 ∧
      (∀ (l : BitVec 72) (n : Nat), bptcDecode (infoOf (received s)) = (fullLc l dt.toNat, outcomeOfChanges n) →
        loadBuf 72 .rxLc t = l ∧ t.result = { decodedResult (m + n) with lc := true, rxClass := 1 } ∧
        t.status = { s.status with done := true, lcEv := true } ∧ t.fecFailCnt = s.fecFailCnt) ∧
      (∀ (f : BitVec 96) (n : Nat), bptcDecode (infoOf (received s)) = (f, outcomeOfChanges n) →
        (∀ l : BitVec 72, f ≠ fullLc l dt.toNat) →
        loadBuf 72 .rxLc t = loadBuf 72 .rxLc s ∧
        t.result = { decodedResult (m + n) with uncorr := true, rxClass := 4 } ∧
        OnlyDoneSet s t ∧ t.fecFailCnt = s.fecFailCnt + 1) ∧
      ((bptcDecode (infoOf (received s))).2 = .fail →
        loadBuf 72 .rxLc t = loadBuf 72 .rxLc s ∧ t.result = { decodedResult m with uncorr := true, rxClass := 4 } ∧
        OnlyDoneSet s t ∧ t.fecFailCnt = s.fecFailCnt + 1)

/-- A burst without a sync whose EMB is farther than 2 from every codeword is dropped; at B to E the superframe is
abandoned, once (42_burst_rx.md section 1). -/
def Obligations.RxUndecodableEmbIsDropped : Prop :=
  ∀ s : State, NoSync s → (∀ v : BitVec 7, 2 < dist (embOf (received s)) (qrEncode v)) →
    ∃ t, exec .rxBurst s = .next t ∧ RxFrame [.voiceOut, .dataOut] s t ∧ OnlyDoneSet s t ∧
      t.result = { clearedResult with uncorr := true, rxClass := 4 } ∧ t.fecFailCnt = s.fecFailCnt + 1 ∧
      loadBuf 256 .dataOut t = 0 ∧ loadBuf 216 .voiceOut t = 0 ∧
      t.rx = { s.rx with
        pos := BitVec.ofNat 3 (nextPosition s), abort := s.rx.abort || decide (nextPosition s ≤ 4) } ∧
      t.abortCnt = (if nextPosition s ≤ 4 ∧ s.rx.abort = false then s.abortCnt + 1 else s.abortCnt)

/-- A burst without a sync whose EMB decodes, where no LC is assembled (42_burst_rx.md section 1): the payload is
handed over, the position advances, and at B to E of a superframe not abandoned the fragment is stored if its LCSS is
the expected one and the superframe is abandoned if not. -/
def Obligations.RxEmbeddedTracksThePosition : Prop :=
  ∀ (s : State) (cc : BitVec 4) (pi : BitVec 1) (lcss : BitVec 2) (m p : Nat), NoSync s →
    m = dist (embOf (received s)) (qrEncode (cc ++ pi ++ lcss)) → m ≤ 2 → p = nextPosition s →
    ¬ (p = 4 ∧ s.rx.abort = false ∧ lcss = 2 ∧ s.rx.fragMask ||| 8 = 0xF) →
    ∃ t, exec .rxBurst s = .next t ∧ RxFrame [.voiceOut, .dataOut, .rxFrag] s t ∧ OnlyDoneSet s t ∧
      t.result = { decodedResult m with pl := true, rxClass := 3 } ∧ t.fecFailCnt = s.fecFailCnt ∧
      loadBuf 216 .voiceOut t = voiceOf (received s) ∧ loadBuf 256 .dataOut t = 0 ∧
      t.rx.cc = cc ∧ t.rx.pi = pi.getLsbD 0 ∧ t.rx.lcss = lcss ∧ t.rx.pos.toNat = p ∧ t.rx.dt = s.rx.dt ∧
      t.rx.syncId = s.rx.syncId ∧
      (p ≤ 4 ∧ s.rx.abort = false ∧ lcss = expectedLcss p →
        t.rx.fragMask = s.rx.fragMask ||| BitVec.twoPow 4 (p - 1) ∧ t.rx.abort = false ∧ t.abortCnt = s.abortCnt ∧
        loadBuf 128 .rxFrag t = fragmentsWith s p) ∧
      (p ≤ 4 ∧ s.rx.abort = false ∧ lcss ≠ expectedLcss p →
        t.rx.fragMask = s.rx.fragMask ∧ t.rx.abort = true ∧ t.abortCnt = s.abortCnt + 1 ∧
        loadBuf 128 .rxFrag t = loadBuf 128 .rxFrag s) ∧
      (4 < p ∨ s.rx.abort = true →
        t.rx.fragMask = s.rx.fragMask ∧ t.rx.abort = s.rx.abort ∧ t.abortCnt = s.abortCnt ∧
        loadBuf 128 .rxFrag t = loadBuf 128 .rxFrag s)

/-- The burst at E that completes the four fragments (42_burst_rx.md section 1): fragments that decode surface their
LC and hand the payload over; fragments that do not decode drop the burst and stay. -/
def Obligations.RxAssemblesTheLcAtE : Prop :=
  ∀ (s : State) (cc : BitVec 4) (pi : BitVec 1) (m : Nat), NoSync s →
    m = dist (embOf (received s)) (qrEncode (cc ++ pi ++ 2#2)) → m ≤ 2 → s.rx.pos = 3 → s.rx.abort = false →
    s.rx.fragMask ||| 8 = 0xF →
    ∃ t, exec .rxBurst s = .next t ∧ RxFrame [.voiceOut, .dataOut, .rxFrag, .rxLc] s t ∧
      t.rx = { s.rx with pos := 4, fragMask := 0xF, cc := cc, pi := pi.getLsbD 0, lcss := 2 } ∧
      t.abortCnt = s.abortCnt ∧ loadBuf 128 .rxFrag t = fragmentsWith s 4 ∧ loadBuf 256 .dataOut t = 0 ∧
      (∀ (l : BitVec 72) (n : Nat), embDecode (fragmentsWith s 4) = (l, outcomeOfChanges n) →
        loadBuf 72 .rxLc t = l ∧ t.result = { decodedResult (m + n) with lc := true, pl := true, rxClass := 3 } ∧
        t.status = { s.status with done := true, lcEv := true } ∧ t.fecFailCnt = s.fecFailCnt ∧
        loadBuf 216 .voiceOut t = voiceOf (received s)) ∧
      ((embDecode (fragmentsWith s 4)).2 = .fail →
        loadBuf 72 .rxLc t = loadBuf 72 .rxLc s ∧ t.result = { decodedResult m with uncorr := true, rxClass := 4 } ∧
        OnlyDoneSet s t ∧ t.fecFailCnt = s.fecFailCnt + 1 ∧ loadBuf 216 .voiceOut t = 0)

/-- RX_LC changes only in a command that sets RESULT.LC, which only RX_BURST does and which sets LC_EV
(10_state.md section 4). -/
def Obligations.RxLcChangesOnlyWithResultLc : Prop :=
  ∀ (i : Instr) (s t : State), exec i s = .next t → i ≠ .softReset →
    (t.result.lc = false → loadBuf 72 .rxLc t = loadBuf 72 .rxLc s ∧ t.status.lcEv = s.status.lcEv) ∧
      (t.result.lc = true → i = .rxBurst ∧ t.status.lcEv = true)

/-- The diagnostic counters (10_state.md section 4): FEC_FAIL_CNT counts each dropped burst, ABORT_CNT grows by at most
one in a burst, and no command but RX_BURST, CLR_CNT and SOFT_RESET changes either. -/
def Obligations.CountersCountDropsAndAborts : Prop :=
  ∀ (i : Instr) (s t : State), exec i s = .next t → i ≠ .softReset → i ≠ .clrCnt →
    t.fecFailCnt = (if i = .rxBurst ∧ t.result.rxClass = 4 then s.fecFailCnt + 1 else s.fecFailCnt) ∧
      (t.abortCnt = s.abortCnt ∨ (i = .rxBurst ∧ t.abortCnt = s.abortCnt + 1))

/-- The header or the terminator built in an active call, given unchanged to RX_BURST, surfaces the LC of LC_ACT
without a correction (42_burst_rx.md section 3). -/
def Obligations.HeaderRoundTrip : Prop :=
  ∀ s t : State, s.tx.active = true →
    (exec .txHdr s = .next t →
      ∃ u, exec .rxBurst (storeBuf .burstIn (loadBuf 264 .burstOut t) t) = .next u ∧
        loadBuf 72 .rxLc u = loadBuf 72 .lcAct s ∧ resultWord u.result = 0x00000014 ∧ u.status.lcEv = true ∧
        u.rx.cc = s.act.cc ∧ u.rx.dt = 1 ∧ u.fecFailCnt = s.fecFailCnt) ∧
    (exec .txTerm s = .next t →
      ∃ u, exec .rxBurst (storeBuf .burstIn (loadBuf 264 .burstOut t) t) = .next u ∧
        loadBuf 72 .rxLc u = loadBuf 72 .lcAct s ∧ resultWord u.result = 0x00000014 ∧ u.status.lcEv = true ∧
        u.rx.cc = s.act.cc ∧ u.rx.dt = 2 ∧ u.fecFailCnt = s.fecFailCnt)

/-- A call of one superframe fed back in order from UNSYNC, with or without a header (42_burst_rx.md section 3): A starts
the superframe, B to E store their fragments, E and the terminator surface the LC of LC_ACT, every voice payload comes
back, and no burst counts as dropped or abandoned. With SYNC_TOL above 1 this asks that no burst of B to F lies within
the tolerance of a sync pattern, which some link control records do (log 11). -/
def Obligations.CallRoundTrip : Prop :=
  ∀ (s w : State) (u : Nat → State) (b : Nat → BitVec 264) (v : Nat → BitVec 216),
    ValidContext s.ctx → s.rx.pos = 7 → exec .callStart s = .next w →
    (u 0 = w ∨ ∃ header payload, LoopedBack .txHdr payload w header (u 0)) →
    (∀ n, n < 7 → LoopedBack (superframeCommand n) (v n) (u n) (b n) (u (n + 1))) →
    (s.ctrl.syncTol.toNat ≤ 1 ∨ ∀ n k, 1 ≤ n → n ≤ 5 → k < 8 → s.ctrl.syncTol.toNat < syncDistance (b n) k) →
    resultWord (u 1).result = 0x28 ∧
    (resultWord (u 2).result = 0x38 ∧ (u 2).rx.fragMask = 1) ∧
    (resultWord (u 3).result = 0x38 ∧ (u 3).rx.fragMask = 3) ∧
    (resultWord (u 4).result = 0x38 ∧ (u 4).rx.fragMask = 7) ∧
    (resultWord (u 5).result = 0x3C ∧ (u 5).rx.fragMask = 15 ∧ loadBuf 72 .rxLc (u 5) = loadBuf 72 .lcAct (u 5) ∧
      loadBuf 72 .rxLc (u 5) = buildLc s.ctx ∧ (u 5).status.lcEv = true) ∧
    resultWord (u 6).result = 0x38 ∧
    (resultWord (u 7).result = 0x14 ∧ (u 7).rx.dt = 2 ∧ loadBuf 72 .rxLc (u 7) = buildLc s.ctx) ∧
    (∀ n, n < 6 → loadBuf 216 .voiceOut (u (n + 1)) = v n ∧ (u (n + 1)).rx.pos.toNat = n) ∧
    ∀ n, n ≤ 7 → (u n).fecFailCnt = s.fecFailCnt ∧ (u n).abortCnt = s.abortCnt
end

