-- ==== Sys2Proof/Config.lean ====
section
/-! DEFINITION. What the platform fixes and the spec leaves to it: the place of the block's window (K12). -/

namespace Sys2Proof

/-- Which 4096-byte page of the host's physical address space holds the window. A platform parameter that the
block does not fix (20_memory.md R101, 93_implementation_defined.md K12): nothing is known of its value. -/
opaque Config.basePage : Nat

/-- `BASE`, the physical address of offset 0x000, aligned to 4096 bytes (20_memory.md R101). -/
def Config.base : Nat := 4096 * Config.basePage

/-- The offset that a physical address of the host selects in the block's window, if it lies there
(20_memory.md R101). Every address of the model is such an offset; no rule depends on `BASE` (log 4). -/
def Config.offsetOf (physical : Nat) : Option Offset :=
  if Config.base ≤ physical ∧ physical < Config.base + 4096 then some (BitVec.ofNat 12 (physical - Config.base))
  else none

end Sys2Proof
end

