-- ==== Sys2Proof/Laws/Bits.lean ====
section
/-! SUPPORT. The laws of bit strings: the bits of each constructor of Machine/Bits.lean, weight and distance. -/

namespace Sys2Proof.Machine

/-! ## Bits of a string -/

@[simp] theorem getMsbD_mkBits (n : Nat) (f : Nat → Bool) (i : Nat) :
    (mkBits n f).getMsbD i = (decide (i < n) && f i) := by
  induction n with
  | zero => simp [mkBits]
  | succ n ih =>
    rcases Nat.lt_trichotomy i n with h | rfl | h
    · simp [mkBits, BitVec.getMsbD_concat, h, ih, Nat.lt_succ_of_lt h]
    · simp [mkBits, BitVec.getMsbD_concat]
    · have h1 : ¬ i < n := by omega
      have h2 : ¬ i = n := by omega
      have h3 : ¬ i < n + 1 := by omega
      simp [mkBits, BitVec.getMsbD_concat, h1, h2, h3]

/-- Two strings of the same length are equal when their bits are. -/
theorem eq_of_getMsbD {w : Nat} {s t : BitVec w} (h : ∀ i, i < w → s.getMsbD i = t.getMsbD i) : s = t :=
  BitVec.eq_of_getMsbD_eq h

theorem getMsbD_bits {w : Nat} (s : BitVec w) (a n i : Nat) (h : a + n ≤ w) :
    (bits s a n).getMsbD i = (decide (i < n) && s.getMsbD (a + i)) := by
  by_cases hi : i < n
  · have h1 : w - 1 - (a + i) = w - (a + n) + (n - 1 - i) := by omega
    have h2 : n - 1 - i < n := by omega
    have h3 : a + i < w := by omega
    simp [bits, BitVec.getMsbD_eq_getLsbD, hi, h1, h2, h3]
  · simp [bits, BitVec.getMsbD_eq_getLsbD, hi]

theorem getMsbD_setBits {w n : Nat} (s : BitVec w) (a : Nat) (v : BitVec n) (i : Nat) :
    (setBits s a v).getMsbD i =
      (decide (i < w) && if a ≤ i ∧ i < a + n then v.getMsbD (i - a) else s.getMsbD i) := by
  simp [setBits]

theorem getMsbD_flipBit {w : Nat} (s : BitVec w) (i j : Nat) (hi : i < w) :
    (flipBit s i).getMsbD j = (s.getMsbD j ^^ decide (j = i)) := by
  by_cases hj : j < w
  · have h : (w - 1 - i = w - 1 - j) ↔ (j = i) := by omega
    have h2 : w - 1 - i < w := by omega
    simp [flipBit, BitVec.getMsbD_eq_getLsbD, hj, h, h2]
  · have h : ¬ j = i := by omega
    simp [BitVec.getMsbD_eq_getLsbD, hj, h]

theorem getMsbD_padTo {w : Nat} (n : Nat) (s : BitVec w) (i : Nat) (h : w ≤ n) :
    (padTo n s).getMsbD i = s.getMsbD i := by
  by_cases hi : i < w
  · have h1 : ¬ n - 1 - i < n - w := by omega
    have h2 : n - 1 - i - (n - w) = w - 1 - i := by omega
    have h3 : i < n := by omega
    have h4 : n - 1 - i < n := by omega
    simp [padTo, BitVec.getMsbD_eq_getLsbD, hi, h1, h2, h3, h4]
  · by_cases h3 : i < n
    · have h1 : n - 1 - i < n - w := by omega
      simp [padTo, BitVec.getMsbD_eq_getLsbD, hi, h1, h3]
    · simp [BitVec.getMsbD_eq_getLsbD, hi, h3]

@[simp] theorem getMsbD_gather {w : Nat} (n : Nat) (ps : List Nat) (s : BitVec w) (i : Nat) :
    (gather n ps s).getMsbD i = (decide (i < n) && s.getMsbD (ps.getD i 0)) := by
  simp [gather]

theorem getMsbD_scatter {n : Nat} (w : Nat) (ps : List Nat) (s : BitVec n) (p : Nat) :
    (scatter w ps s).getMsbD p =
      (decide (p < w) && match ps.idxOf? p with | some i => s.getMsbD i | none => false) :=
  (getMsbD_mkBits ..).trans rfl

/-! ## Exclusive-or -/

theorem mkBits_xor (n : Nat) (f g : Nat → Bool) :
    mkBits n (fun i => f i ^^ g i) = mkBits n f ^^^ mkBits n g := by
  apply eq_of_getMsbD
  intro i hi
  simp [hi]

@[simp] theorem parityOf_xor {w : Nat} (s t : BitVec w) (is : List Nat) :
    parityOf (s ^^^ t) is = (parityOf s is ^^ parityOf t is) := by
  induction is with
  | nil => rfl
  | cons i is ih =>
    simp only [parityOf, ih, BitVec.getMsbD_xor]
    cases s.getMsbD i <;> cases t.getMsbD i <;> cases parityOf s is <;> cases parityOf t is <;> rfl

theorem bits_xor {w : Nat} (s t : BitVec w) (a n : Nat) : bits (s ^^^ t) a n = bits s a n ^^^ bits t a n := by
  apply BitVec.eq_of_getLsbD_eq
  intro i hi
  simp [bits, hi]

theorem gather_xor {w : Nat} (n : Nat) (ps : List Nat) (s t : BitVec w) :
    gather n ps (s ^^^ t) = gather n ps s ^^^ gather n ps t := by
  simp only [gather, BitVec.getMsbD_xor]
  exact mkBits_xor n _ _

theorem flipBit_xor {w : Nat} (s t : BitVec w) (i : Nat) : flipBit (s ^^^ t) i = flipBit s i ^^^ t := by
  unfold flipBit
  rw [BitVec.xor_assoc, BitVec.xor_comm t, ← BitVec.xor_assoc]

/-! ## Weight and distance -/

theorem onesBelow_xor_le {w : Nat} (s t : BitVec w) (k : Nat) :
    onesBelow (s ^^^ t) k ≤ onesBelow s k + onesBelow t k := by
  induction k with
  | zero => simp [onesBelow]
  | succ k ih =>
    simp only [onesBelow, BitVec.getLsbD_xor]
    cases s.getLsbD k <;> cases t.getLsbD k <;> simp <;> omega

theorem wt_xor_le {w : Nat} (s t : BitVec w) : wt (s ^^^ t) ≤ wt s + wt t := onesBelow_xor_le s t w

theorem onesBelow_le {w : Nat} (s : BitVec w) (k : Nat) : onesBelow s k ≤ k := by
  induction k with
  | zero => simp [onesBelow]
  | succ k ih => simp only [onesBelow]; cases s.getLsbD k <;> simp <;> omega

theorem onesBelow_eq_zero {w : Nat} (s : BitVec w) (k : Nat) (h : onesBelow s k = 0) :
    ∀ i, i < k → s.getLsbD i = false := by
  induction k with
  | zero => intro i hi; omega
  | succ k ih =>
    intro i hi
    simp only [onesBelow] at h
    rcases Nat.lt_succ_iff_lt_or_eq.mp hi with h' | rfl
    · exact ih (by omega) i h'
    · cases hb : s.getLsbD i with
      | false => rfl
      | true => simp [hb] at h

@[simp] theorem wt_zero (w : Nat) : wt (0#w) = 0 := by
  unfold wt
  generalize hk : w = k
  clear hk
  suffices h : ∀ j, onesBelow (0#k) j = 0 from h k
  intro j
  induction j with
  | zero => rfl
  | succ j ih => simp [onesBelow, ih]

@[simp] theorem wt_eq_zero {w : Nat} (s : BitVec w) : wt s = 0 ↔ s = 0 := by
  constructor
  · intro h
    apply BitVec.eq_of_getLsbD_eq
    intro i hi
    simpa using onesBelow_eq_zero s w h i hi
  · rintro rfl
    exact wt_zero w

@[simp] theorem dist_self {w : Nat} (s : BitVec w) : dist s s = 0 := by simp [dist]

theorem dist_comm {w : Nat} (s t : BitVec w) : dist s t = dist t s := by
  unfold dist
  rw [BitVec.xor_comm]

theorem dist_triangle {w : Nat} (s t u : BitVec w) : dist s u ≤ dist s t + dist t u := by
  have h : s ^^^ u = (s ^^^ t) ^^^ (t ^^^ u) := by
    rw [BitVec.xor_assoc, ← BitVec.xor_assoc t t u]
    simp
  unfold dist
  rw [h]
  exact wt_xor_le _ _

theorem dist_eq_zero {w : Nat} (s t : BitVec w) : dist s t = 0 ↔ s = t := by
  unfold dist
  rw [wt_eq_zero]
  exact BitVec.xor_eq_zero_iff

end Sys2Proof.Machine
end

