-- ==== Sys2Proof/Laws/Memory.lean ====
section
/-! SUPPORT. The laws of the buffer memory: read after write, the canonical form, and whole buffers. -/

namespace Sys2Proof.Machine

/-! ## Read after write -/

theorem memRead_memErase (m : Mem) (a x : Nat) :
    memRead (memErase m a) x = if x = a then unlistedByte else memRead m x := by
  induction m with
  | nil => simp [memErase, memRead]
  | cons e m ih =>
    obtain ⟨k, b⟩ := e
    by_cases hk : k = a <;> by_cases hx : x = a <;> by_cases hkx : k = x <;>
      simp_all [memErase, memRead]

theorem memRead_memInsert (m : Mem) (a : Nat) (v : Byte) (x : Nat) :
    memRead (memInsert m a v) x = if x = a then v else memRead m x := by
  induction m with
  | nil =>
    by_cases hx : x = a
    · simp [memInsert, memRead, hx]
    · simp [memInsert, memRead, hx, Ne.symm hx]
  | cons e m ih =>
    obtain ⟨k, b⟩ := e
    by_cases hk : k < a
    · have hka : k ≠ a := by omega
      by_cases hkx : k = x
      · subst hkx
        simp [memInsert, memRead, hk, hka]
      · simp [memInsert, memRead, hk, hkx, ih]
    · by_cases hx : x = a
      · simp [memInsert, memRead, hk, hx]
      · simp [memInsert, memRead, hk, hx, Ne.symm hx]

/-- A byte reads as it was written last. -/
@[simp] theorem memRead_memWrite (m : Mem) (a : Nat) (v : Byte) (x : Nat) :
    memRead (memWrite m a v) x = if x = a then v else memRead m x := by
  unfold memWrite
  by_cases hv : v = unlistedByte <;> by_cases hx : x = a <;>
    simp [hv, hx, memRead_memErase, memRead_memInsert]

theorem memRead_memWrite_same (m : Mem) (a : Nat) (v : Byte) : memRead (memWrite m a v) a = v := by simp

theorem memRead_memWrite_other (m : Mem) (a : Nat) (v : Byte) (x : Nat) (h : x ≠ a) :
    memRead (memWrite m a v) x = memRead m x := by simp [h]

theorem memRead_memWriteBytes {w : Nat} (m : Mem) (start : Nat) (v : BitVec w) (n x : Nat) :
    memRead (memWriteBytes m start v n) x =
      if start ≤ x ∧ x < start + n then byteAt v (x - start) else memRead m x := by
  induction n with
  | zero => simp [memWriteBytes]
  | succ n ih =>
    simp only [memWriteBytes, memRead_memWrite, ih]
    by_cases hx : x = start + n
    · subst hx
      simp
    · by_cases h : start ≤ x ∧ x < start + n
      · have h' : start ≤ x ∧ x < start + (n + 1) := by omega
        rw [if_neg hx, if_pos h, if_pos h']
      · have h' : ¬ (start ≤ x ∧ x < start + (n + 1)) := by omega
        rw [if_neg hx, if_neg h, if_neg h']

/-! ## The canonical form -/

theorem memWfFrom_mono {low low' : Nat} (h : low' ≤ low) (m : Mem) (hw : memWfFrom low m = true) :
    memWfFrom low' m = true := by
  cases m with
  | nil => rfl
  | cons e m =>
    obtain ⟨k, b⟩ := e
    simp only [memWfFrom, Bool.and_eq_true, decide_eq_true_eq] at hw ⊢
    exact ⟨⟨⟨by omega, hw.1.1.2⟩, hw.1.2⟩, hw.2⟩

theorem memWfFrom_memErase (low : Nat) (m : Mem) (a : Nat) (hw : memWfFrom low m = true) :
    memWfFrom low (memErase m a) = true := by
  induction m generalizing low with
  | nil => rfl
  | cons e m ih =>
    obtain ⟨k, b⟩ := e
    simp only [memWfFrom, Bool.and_eq_true, decide_eq_true_eq] at hw
    obtain ⟨⟨⟨h1, h2⟩, h3⟩, h4⟩ := hw
    by_cases hk : k = a
    · simp only [memErase, if_pos hk]
      exact memWfFrom_mono (by omega) _ (ih _ h4)
    · simp only [memErase, if_neg hk, memWfFrom, Bool.and_eq_true, decide_eq_true_eq]
      exact ⟨⟨⟨h1, h2⟩, h3⟩, ih _ h4⟩

/-- No entry for an offset. -/
abbrev MemLacks (m : Mem) (a : Nat) : Prop := ∀ e ∈ m, e.1 ≠ a

theorem memErase_lacks (m : Mem) (a : Nat) : MemLacks (memErase m a) a := by
  induction m with
  | nil => intro e he; cases he
  | cons e m ih =>
    obtain ⟨k, b⟩ := e
    by_cases hk : k = a
    · simpa only [memErase, if_pos hk] using ih
    · simp only [memErase, if_neg hk, MemLacks, List.mem_cons]
      rintro e (rfl | he)
      · exact hk
      · exact ih e he

theorem memWfFrom_memInsert (low : Nat) (m : Mem) (a : Nat) (v : Byte) (hl : low ≤ a) (ha : (bufAt a).isSome = true)
    (hv : v ≠ unlistedByte) (hn : MemLacks m a) (hw : memWfFrom low m = true) :
    memWfFrom low (memInsert m a v) = true := by
  induction m generalizing low with
  | nil => simp [memInsert, memWfFrom, hl, ha, hv]
  | cons e m ih =>
    obtain ⟨k, b⟩ := e
    have hka : k ≠ a := hn (k, b) (List.mem_cons_self ..)
    simp only [memWfFrom, Bool.and_eq_true, decide_eq_true_eq] at hw
    obtain ⟨⟨⟨h1, h2⟩, h3⟩, h4⟩ := hw
    by_cases hk : k < a
    · simp only [memInsert, if_pos hk, memWfFrom, Bool.and_eq_true, decide_eq_true_eq]
      exact ⟨⟨⟨h1, h2⟩, h3⟩, ih _ (by omega) (fun e he => hn e (List.mem_cons_of_mem _ he)) h4⟩
    · simp only [memInsert, if_neg hk, memWfFrom, Bool.and_eq_true, decide_eq_true_eq, bne_iff_ne]
      exact ⟨⟨⟨hl, ha⟩, hv⟩, ⟨⟨by omega, h2⟩, by simpa using h3⟩, h4⟩

/-- A write to a buffer offset keeps the canonical form. -/
theorem memWf_memWrite (m : Mem) (a : Nat) (v : Byte) (ha : (bufAt a).isSome = true) (hw : memWf m = true) :
    memWf (memWrite m a v) = true := by
  unfold memWrite
  by_cases hv : v = unlistedByte
  · rw [if_pos hv]
    exact memWfFrom_memErase 0 m a hw
  · rw [if_neg hv]
    exact memWfFrom_memInsert 0 _ a v (Nat.zero_le _) ha hv (memErase_lacks m a) (memWfFrom_memErase 0 m a hw)

theorem memRead_below (low : Nat) (m : Mem) (a : Nat) (ha : a < low) (hw : memWfFrom low m = true) :
    memRead m a = unlistedByte := by
  induction m generalizing low with
  | nil => rfl
  | cons e m ih =>
    obtain ⟨k, b⟩ := e
    simp only [memWfFrom, Bool.and_eq_true, decide_eq_true_eq] at hw
    have hk : ¬ k = a := by omega
    simp only [memRead, if_neg hk]
    exact ih (k + 1) (by omega) hw.2

/-- Memories in canonical form that read the same are equal data. -/
theorem memWfFrom_ext (low : Nat) (m m' : Mem) (hw : memWfFrom low m = true) (hw' : memWfFrom low m' = true)
    (h : ∀ a, memRead m a = memRead m' a) : m = m' := by
  induction m generalizing low m' with
  | nil =>
    cases m' with
    | nil => rfl
    | cons e m' =>
      obtain ⟨k, b⟩ := e
      have hk := h k
      simp only [memWfFrom, Bool.and_eq_true, bne_iff_ne] at hw'
      simp only [memRead, if_true] at hk
      exact absurd hk.symm (by simpa using hw'.1.2)
  | cons e m ih =>
    obtain ⟨k, b⟩ := e
    have hwe := hw
    simp only [memWfFrom, Bool.and_eq_true, decide_eq_true_eq, bne_iff_ne] at hwe
    cases m' with
    | nil =>
      have hk := h k
      simp only [memRead, if_true] at hk
      exact absurd hk hwe.1.2
    | cons e' m' =>
      obtain ⟨k', b'⟩ := e'
      have hwe' := hw'
      simp only [memWfFrom, Bool.and_eq_true, decide_eq_true_eq, bne_iff_ne] at hwe'
      rcases Nat.lt_trichotomy k k' with hlt | rfl | hlt
      · have hk := h k
        have hz : memRead ((k', b') :: m') k = unlistedByte :=
          memRead_below k' _ k hlt (by simpa [memWfFrom, hwe'.1.1.2, hwe'.1.2] using hwe'.2)
        rw [hz] at hk
        simp only [memRead, if_true] at hk
        exact absurd hk hwe.1.2
      · have hb := h k
        simp only [memRead, if_true] at hb
        subst hb
        congr 1
        apply ih (k + 1) m' hwe.2 hwe'.2
        intro a
        by_cases hka : k = a
        · subst hka
          rw [memRead_below (k + 1) m k (by omega) hwe.2, memRead_below (k + 1) m' k (by omega) hwe'.2]
        · simpa only [memRead, if_neg hka] using h a
      · have hk := h k'
        have hz : memRead ((k, b) :: m) k' = unlistedByte :=
          memRead_below k _ k' hlt (by simpa [memWfFrom, hwe.1.1.2, hwe.1.2] using hwe.2)
        rw [hz] at hk
        simp only [memRead, if_true] at hk
        exact absurd hk.symm hwe'.1.2

theorem memWf_ext (m m' : Mem) (hw : memWf m = true) (hw' : memWf m' = true)
    (h : ∀ a, memRead m a = memRead m' a) : m = m' := memWfFrom_ext 0 m m' hw hw' h

/-! ## Whole buffers -/

theorem inBuf_iff (b : Buf) (a : Nat) : inBuf b a = true ↔ bufStart b ≤ a ∧ a < bufStart b + bufLen b := by
  simp [inBuf]

/-- The buffers do not overlap (20_memory.md R102). -/
theorem inBuf_unique (b c : Buf) (a : Nat) (hb : inBuf b a = true) (hc : inBuf c a = true) : b = c := by
  rw [inBuf_iff] at hb hc
  cases b <;> cases c <;> first | rfl | (simp only [bufStart, bufLen] at hb hc; omega)

theorem bufAt_of_inBuf (b : Buf) (a : Nat) (h : inBuf b a = true) : bufAt a = some b := by
  have hb : b ∈ allBufs := by cases b <;> decide
  unfold bufAt
  cases hf : allBufs.find? (fun b => inBuf b a) with
  | none => exact absurd h (by simpa using (List.find?_eq_none.mp hf) b hb)
  | some c => rw [inBuf_unique c b a (by simpa using List.find?_some hf) h]

theorem bufAt_eq_some (a : Nat) (b : Buf) : bufAt a = some b ↔ inBuf b a = true :=
  ⟨fun h => by simpa using List.find?_some h, bufAt_of_inBuf b a⟩

theorem memReadNat_congr (m m' : Mem) (start n : Nat)
    (h : ∀ a, start ≤ a → a < start + n → memRead m a = memRead m' a) :
    memReadNat m start n = memReadNat m' start n := by
  induction n with
  | zero => rfl
  | succ n ih =>
    simp only [memReadNat]
    rw [ih (fun a h1 h2 => h a h1 (by omega)), h (start + n) (by omega) (by omega)]

/-- A buffer depends only on its own bytes. -/
theorem loadBuf_congr (w : Nat) (b : Buf) (s t : State)
    (h : ∀ a, inBuf b a = true → memRead s.mem a = memRead t.mem a) : loadBuf w b s = loadBuf w b t := by
  unfold loadBuf
  rw [memReadNat_congr s.mem t.mem _ _ fun a h1 h2 => h a ((inBuf_iff b a).mpr ⟨h1, h2⟩)]

theorem loadBuf_of_mem_eq (w : Nat) (b : Buf) {s t : State} (h : s.mem = t.mem) : loadBuf w b s = loadBuf w b t := by
  unfold loadBuf
  rw [h]

/-- What a store to a buffer does to every byte. -/
theorem memRead_storeBuf {w : Nat} (b : Buf) (v : BitVec w) (s : State) (a : Nat) :
    memRead (storeBuf b v s).mem a = if inBuf b a then byteAt v (a - bufStart b) else memRead s.mem a := by
  have h := memRead_memWriteBytes s.mem (bufStart b) v (bufLen b) a
  simp only [storeBuf, h, inBuf, decide_eq_true_eq]

theorem memRead_storeBuf_outside {w : Nat} (b : Buf) (v : BitVec w) (s : State) (a : Nat) (h : inBuf b a = false) :
    memRead (storeBuf b v s).mem a = memRead s.mem a := by
  rw [memRead_storeBuf, h]
  rfl

/-- A store to another buffer leaves a buffer alone. -/
theorem loadBuf_storeBuf_other {w : Nat} (w' : Nat) (b c : Buf) (v : BitVec w) (s : State) (h : b ≠ c) :
    loadBuf w' b (storeBuf c v s) = loadBuf w' b s := by
  apply loadBuf_congr
  intro a ha
  apply memRead_storeBuf_outside
  cases hc : inBuf c a with
  | false => rfl
  | true => exact absurd (inBuf_unique b c a ha hc) h

theorem byteAt_toNat {w : Nat} (v : BitVec w) (n : Nat) :
    (byteAt v n).toNat = v.toNat / 2 ^ (w - (8 * n + 8)) % 256 := by
  simp [byteAt, bits, BitVec.extractLsb'_toNat, Nat.shiftRight_eq_div_pow]

theorem memReadNat_of_bytes {w : Nat} (m : Mem) (start : Nat) (v : BitVec w) (n : Nat) (hn : 8 * n ≤ w)
    (h : ∀ i, i < n → memRead m (start + i) = byteAt v i) :
    memReadNat m start n = v.toNat / 2 ^ (w - 8 * n) := by
  induction n with
  | zero =>
    have hv := v.isLt
    simp [memReadNat, Nat.div_eq_of_lt hv]
  | succ n ih =>
    have hp : 2 ^ (w - 8 * n) = 2 ^ (w - (8 * n + 8)) * 256 := by
      have he : w - 8 * n = w - (8 * n + 8) + 8 := by omega
      rw [he, pow_add]
      norm_num
    simp only [memReadNat]
    rw [ih (by omega) (fun i hi => h i (by omega)), h n (by omega), byteAt_toNat, hp, ← Nat.div_div_eq_div_mul]
    have he : 8 * (n + 1) = 8 * n + 8 := by ring
    rw [he]
    omega

/-- A buffer reads as it was stored. -/
theorem loadBuf_storeBuf_same {w : Nat} (b : Buf) (v : BitVec w) (s : State) (hw : w = 8 * bufLen b) :
    loadBuf w b (storeBuf b v s) = v := by
  unfold loadBuf
  rw [memReadNat_of_bytes _ _ v (bufLen b) (by omega)]
  · have he : w - 8 * bufLen b = 0 := by omega
    simp [he]
  · intro i hi
    rw [memRead_storeBuf, if_pos ((inBuf_iff _ _).mpr ⟨by omega, by omega⟩)]
    congr 1
    omega

/-- A store to a buffer keeps the canonical form. -/
theorem memWf_storeBuf {w : Nat} (b : Buf) (v : BitVec w) (s : State) (hw : memWf s.mem = true) :
    memWf (storeBuf b v s).mem = true := by
  suffices h : ∀ n, n ≤ bufLen b → memWf (memWriteBytes s.mem (bufStart b) v n) = true from h _ (Nat.le_refl _)
  intro n hn
  induction n with
  | zero => exact hw
  | succ n ih =>
    apply memWf_memWrite _ _ _ _ (ih (by omega))
    rw [bufAt_of_inBuf b _ ((inBuf_iff _ _).mpr ⟨by omega, by omega⟩)]
    rfl

end Sys2Proof.Machine
end

