-- ==== Sys2Proof/Laws/Buffers.lean ====
section
/-! SUPPORT. The bit order of buffers (20_memory.md R104): a buffer's bit string against its bytes. -/

namespace Sys2Proof.Machine

theorem testBit_memReadNat (m : Mem) (start n j : Nat) (hj : j < 8 * n) :
    (memReadNat m start n).testBit j = (memRead m (start + (n - 1 - j / 8))).getLsbD (j % 8) := by
  induction n generalizing j with
  | zero => omega
  | succ n ih =>
    have hb : (memRead m (start + n)).toNat < 2 ^ 8 := (memRead m (start + n)).isLt
    have hm : memReadNat m start n * 256 + (memRead m (start + n)).toNat =
        2 ^ 8 * memReadNat m start n + (memRead m (start + n)).toNat := by ring
    simp only [memReadNat]
    rw [hm, Nat.testBit_two_pow_mul_add _ hb]
    by_cases h8 : j < 8
    · have h1 : j / 8 = 0 := by omega
      have h2 : j % 8 = j := by omega
      simp [h8, h1, h2, BitVec.getLsbD]
    · rw [if_neg h8, ih (j - 8) (by omega)]
      have h1 : n - 1 - (j - 8) / 8 = n + 1 - 1 - j / 8 := by omega
      have h2 : (j - 8) % 8 = j % 8 := by omega
      rw [h1, h2]

/-- Bit i of a buffer is bit 7 - (i mod 8) of byte floor(i / 8) (20_memory.md R104). -/
theorem getMsbD_loadBuf (w : Nat) (b : Buf) (s : State) (i : Nat) (hw : w = 8 * bufLen b) (hi : i < w) :
    (loadBuf w b s).getMsbD i = (memRead s.mem (bufStart b + i / 8)).getMsbD (i % 8) := by
  have hj : w - 1 - i < 8 * bufLen b := by omega
  have h1 : bufLen b - 1 - (w - 1 - i) / 8 = i / 8 := by omega
  have h2 : (w - 1 - i) % 8 = 8 - 1 - i % 8 := by omega
  have h3 : i % 8 < 8 := by omega
  have h4 : w - 1 - i < w := by omega
  simp only [BitVec.getMsbD_eq_getLsbD, hi, h3, decide_true, Bool.true_and]
  rw [loadBuf, BitVec.getLsbD_ofNat, testBit_memReadNat _ _ _ _ hj, h1, h2]
  simp [h4]

/-- Byte k of a buffer's bit string is the byte at offset k of the buffer (00_scope.md R14). -/
theorem byteAt_loadBuf (w : Nat) (b : Buf) (s : State) (k : Nat) (hw : w = 8 * bufLen b) (hk : k < bufLen b) :
    byteAt (loadBuf w b s) k = memRead s.mem (bufStart b + k) := by
  apply eq_of_getMsbD
  intro i hi
  have h1 : (8 * k + i) / 8 = k := by omega
  have h2 : (8 * k + i) % 8 = i := by omega
  rw [byteAt, getMsbD_bits _ _ _ _ (by omega), getMsbD_loadBuf w b s _ hw (by omega), h1, h2]
  simp [hi]

/-- Two states whose buffer bytes agree have the same bit string there, and the other way round. -/
theorem loadBuf_eq_iff (w : Nat) (b : Buf) (s t : State) (hw : w = 8 * bufLen b) :
    loadBuf w b s = loadBuf w b t ↔ ∀ a, inBuf b a = true → memRead s.mem a = memRead t.mem a := by
  constructor
  · intro h a ha
    rw [inBuf_iff] at ha
    have hs := byteAt_loadBuf w b s (a - bufStart b) hw (by omega)
    have ht := byteAt_loadBuf w b t (a - bufStart b) hw (by omega)
    have he : bufStart b + (a - bufStart b) = a := by omega
    rw [he] at hs ht
    rw [← hs, ← ht, h]
  · exact loadBuf_congr w b s t

end Sys2Proof.Machine
end

