-- ==== Sys2Proof/Laws/Codes.lean ====
section
/-! SUPPORT. The laws of the codes: parity and syndrome are linear, the data bits of a codeword, the permutations of
the product codes. -/

namespace Sys2Proof.Machine

/-! ## Linearity -/

theorem toNat_xor_add_double (a b : Bool) (m n : Nat) :
    (a ^^ b).toNat + 2 * (m ^^^ n) = (a.toNat + 2 * m) ^^^ (b.toNat + 2 * n) := by
  apply Nat.eq_of_testBit_eq
  intro i
  have h (c : Bool) (k : Nat) : (c.toNat + 2 * k).testBit i = if i = 0 then c else k.testBit (i - 1) := by
    cases i with
    | zero => cases c <;> simp [Nat.testBit_zero]
    | succ i =>
      have hd : (c.toNat + 2 * k) / 2 = k := by have := c.toNat_le; omega
      simp [Nat.testBit_succ, hd]
  simp only [h, Nat.testBit_xor]
  split <;> rfl

/-- The syndrome of an exclusive-or is the exclusive-or of the syndromes. -/
theorem hamSyndrome_xor {w : Nat} (c e : BitVec w) (k : Nat) (eqs : List (List Nat)) :
    hamSyndrome (c ^^^ e) k eqs = hamSyndrome c k eqs ^^^ hamSyndrome e k eqs := by
  induction eqs generalizing k with
  | nil => simp [hamSyndrome]
  | cons eq eqs ih =>
    simp only [hamSyndrome]
    rw [ih, ← toNat_xor_add_double, parityOf_xor, BitVec.getMsbD_xor]
    congr 2
    cases parityOf c eq <;> cases parityOf e eq <;> cases c.getMsbD k <;> cases e.getMsbD k <;> rfl

theorem hamParity_xor {w : Nat} (r : Nat) (eqs : List (List Nat)) (d e : BitVec w) :
    hamParity r eqs (d ^^^ e) = hamParity r eqs d ^^^ hamParity r eqs e := by
  simp only [hamParity, parityOf_xor]
  exact mkBits_xor r _ _

theorem append_xor {m n : Nat} (a b : BitVec m) (c d : BitVec n) : (a ^^^ b) ++ (c ^^^ d) = (a ++ c) ^^^ (b ++ d) := by
  apply BitVec.eq_of_getLsbD_eq
  intro i hi
  simp only [BitVec.getLsbD_append, BitVec.getLsbD_xor]
  split <;> rfl

theorem h15Encode_xor (d e : BitVec 11) : h15Encode (d ^^^ e) = h15Encode d ^^^ h15Encode e := by
  unfold h15Encode
  rw [hamParity_xor, append_xor]

theorem h13Encode_xor (d e : BitVec 9) : h13Encode (d ^^^ e) = h13Encode d ^^^ h13Encode e := by
  unfold h13Encode
  rw [hamParity_xor, append_xor]

theorem h16Encode_xor (d e : BitVec 11) : h16Encode (d ^^^ e) = h16Encode d ^^^ h16Encode e := by
  unfold h16Encode
  rw [hamParity_xor, append_xor]

theorem rowError_of_zero_syndrome (r : Nat) (d : BitVec 196)
    (h : hamSyndrome (gather 15 (bptcRow r) d) 11 h15Eqs = 0) : rowError r d = none := by
  simp [rowError, lineError, h]

theorem colError_of_zero_syndrome (c : Nat) (d : BitVec 196)
    (h : hamSyndrome (gather 13 (bptcCol c) d) 9 h13Eqs = 0) : colError c d = none := by
  simp [colError, lineError, h]

/-! ## Permutations -/

/-- 13 inverts 181 modulo 196 (44_fec_bptc.md R400, log 9). -/
theorem bptcDeinterleave_interleave (d : BitVec 196) : bptcDeinterleave (bptcInterleave d) = d := by
  apply eq_of_getMsbD
  intro i hi
  have h : i * 181 % 196 * 13 % 196 = i := by omega
  have h2 : i * 181 % 196 < 196 := by omega
  simp only [bptcDeinterleave, bptcInterleave, getMsbD_mkBits, hi, h, h2, decide_true, Bool.true_and]

theorem bptcInterleave_deinterleave (x : BitVec 196) : bptcInterleave (bptcDeinterleave x) = x := by
  apply eq_of_getMsbD
  intro i hi
  have h : i * 13 % 196 * 181 % 196 = i := by omega
  have h2 : i * 13 % 196 < 196 := by omega
  simp only [bptcDeinterleave, bptcInterleave, getMsbD_mkBits, hi, h, h2, decide_true, Bool.true_and]

/-- The relation of 44_fec_bptc.md R400 for encoding: X[(a · 181) mod 196] = D[a]. -/
theorem getMsbD_bptcInterleave (d : BitVec 196) (a : Nat) (ha : a < 196) :
    (bptcInterleave d).getMsbD (a * 181 % 196) = d.getMsbD a := by
  have h : a * 181 % 196 * 13 % 196 = a := by omega
  have h2 : a * 181 % 196 < 196 := by omega
  simp only [bptcInterleave, getMsbD_mkBits, h, h2, decide_true, Bool.true_and]

theorem embMatrix_transmit (m : BitVec 128) : embMatrix (embTransmit m) = m := by
  apply eq_of_getMsbD
  intro i hi
  have h : (i % 16 * 8 + i / 16) % 8 * 16 + (i % 16 * 8 + i / 16) / 8 = i := by omega
  have h2 : i % 16 * 8 + i / 16 < 128 := by omega
  simp only [embMatrix, embTransmit, getMsbD_mkBits, hi, h, h2, decide_true, Bool.true_and]

theorem embTransmit_matrix (e : BitVec 128) : embTransmit (embMatrix e) = e := by
  apply eq_of_getMsbD
  intro i hi
  have h : (i % 8 * 16 + i / 8) % 16 * 8 + (i % 8 * 16 + i / 8) / 16 = i := by omega
  have h2 : i % 8 * 16 + i / 8 < 128 := by omega
  simp only [embMatrix, embTransmit, getMsbD_mkBits, hi, h, h2, decide_true, Bool.true_and]

end Sys2Proof.Machine
end

