-- ==== Sys2Proof/Laws/State.lean ====
section
/-! SUPPORT. What each update of the state does to each of its fields, so that no later proof unfolds a record update. -/

namespace Sys2Proof.Machine

/-! ## storeBuf -/

@[simp] theorem storeBuf_ctrl {w : Nat} (b : Buf) (v : BitVec w) (s : State) : (storeBuf b v s).ctrl = s.ctrl := rfl

@[simp] theorem storeBuf_status {w : Nat} (b : Buf) (v : BitVec w) (s : State) :
    (storeBuf b v s).status = s.status :=
  rfl

@[simp] theorem storeBuf_result {w : Nat} (b : Buf) (v : BitVec w) (s : State) :
    (storeBuf b v s).result = s.result :=
  rfl

@[simp] theorem storeBuf_ctx {w : Nat} (b : Buf) (v : BitVec w) (s : State) : (storeBuf b v s).ctx = s.ctx := rfl

@[simp] theorem storeBuf_act {w : Nat} (b : Buf) (v : BitVec w) (s : State) : (storeBuf b v s).act = s.act := rfl

@[simp] theorem storeBuf_tx {w : Nat} (b : Buf) (v : BitVec w) (s : State) : (storeBuf b v s).tx = s.tx := rfl

@[simp] theorem storeBuf_rx {w : Nat} (b : Buf) (v : BitVec w) (s : State) : (storeBuf b v s).rx = s.rx := rfl

@[simp] theorem storeBuf_fecFailCnt {w : Nat} (b : Buf) (v : BitVec w) (s : State) :
    (storeBuf b v s).fecFailCnt = s.fecFailCnt :=
  rfl

@[simp] theorem storeBuf_abortCnt {w : Nat} (b : Buf) (v : BitVec w) (s : State) :
    (storeBuf b v s).abortCnt = s.abortCnt :=
  rfl

@[simp] theorem storeBuf_mem {w : Nat} (b : Buf) (v : BitVec w) (s : State) :
    (storeBuf b v s).mem = memWriteBytes s.mem (bufStart b) v (bufLen b) :=
  rfl

@[simp] theorem storeBuf_rst {w : Nat} (b : Buf) (v : BitVec w) (s : State) : (storeBuf b v s).rst = s.rst := rfl

@[simp] theorem storeBuf_inputs {w : Nat} (b : Buf) (v : BitVec w) (s : State) :
    (storeBuf b v s).inputs = s.inputs :=
  rfl

@[simp] theorem storeBuf_response {w : Nat} (b : Buf) (v : BitVec w) (s : State) :
    (storeBuf b v s).response = s.response :=
  rfl

/-! ## setDone -/

@[simp] theorem setDone_ctrl (s : State) : (setDone s).ctrl = s.ctrl := rfl

@[simp] theorem setDone_status (s : State) : (setDone s).status = { s.status with done := true } := rfl

@[simp] theorem setDone_result (s : State) : (setDone s).result = s.result := rfl

@[simp] theorem setDone_ctx (s : State) : (setDone s).ctx = s.ctx := rfl

@[simp] theorem setDone_act (s : State) : (setDone s).act = s.act := rfl

@[simp] theorem setDone_tx (s : State) : (setDone s).tx = s.tx := rfl

@[simp] theorem setDone_rx (s : State) : (setDone s).rx = s.rx := rfl

@[simp] theorem setDone_fecFailCnt (s : State) : (setDone s).fecFailCnt = s.fecFailCnt := rfl

@[simp] theorem setDone_abortCnt (s : State) : (setDone s).abortCnt = s.abortCnt := rfl

@[simp] theorem setDone_mem (s : State) : (setDone s).mem = s.mem := rfl

@[simp] theorem setDone_rst (s : State) : (setDone s).rst = s.rst := rfl

@[simp] theorem setDone_inputs (s : State) : (setDone s).inputs = s.inputs := rfl

@[simp] theorem setDone_response (s : State) : (setDone s).response = s.response := rfl

/-! ## clearResult -/

@[simp] theorem clearResult_ctrl (s : State) : (clearResult s).ctrl = s.ctrl := rfl

@[simp] theorem clearResult_status (s : State) : (clearResult s).status = s.status := rfl

@[simp] theorem clearResult_result (s : State) : (clearResult s).result = clearedResult := rfl

@[simp] theorem clearResult_ctx (s : State) : (clearResult s).ctx = s.ctx := rfl

@[simp] theorem clearResult_act (s : State) : (clearResult s).act = s.act := rfl

@[simp] theorem clearResult_tx (s : State) : (clearResult s).tx = s.tx := rfl

@[simp] theorem clearResult_rx (s : State) : (clearResult s).rx = s.rx := rfl

@[simp] theorem clearResult_fecFailCnt (s : State) : (clearResult s).fecFailCnt = s.fecFailCnt := rfl

@[simp] theorem clearResult_abortCnt (s : State) : (clearResult s).abortCnt = s.abortCnt := rfl

@[simp] theorem clearResult_mem (s : State) : (clearResult s).mem = s.mem := rfl

@[simp] theorem clearResult_rst (s : State) : (clearResult s).rst = s.rst := rfl

@[simp] theorem clearResult_inputs (s : State) : (clearResult s).inputs = s.inputs := rfl

@[simp] theorem clearResult_response (s : State) : (clearResult s).response = s.response := rfl

/-! ## errorEntry -/

@[simp] theorem errorEntry_ctrl (c : ErrCode) (d : Bool) (s : State) : (errorEntry c d s).ctrl = s.ctrl := rfl

@[simp] theorem errorEntry_status (c : ErrCode) (d : Bool) (s : State) :
    (errorEntry c d s).status = { s.status with errCode := if s.status.err then s.status.errCode else errCodeValue c, err := true, done := s.status.done || d } :=
  rfl

@[simp] theorem errorEntry_result (c : ErrCode) (d : Bool) (s : State) : (errorEntry c d s).result = s.result := rfl

@[simp] theorem errorEntry_ctx (c : ErrCode) (d : Bool) (s : State) : (errorEntry c d s).ctx = s.ctx := rfl

@[simp] theorem errorEntry_act (c : ErrCode) (d : Bool) (s : State) : (errorEntry c d s).act = s.act := rfl

@[simp] theorem errorEntry_tx (c : ErrCode) (d : Bool) (s : State) : (errorEntry c d s).tx = s.tx := rfl

@[simp] theorem errorEntry_rx (c : ErrCode) (d : Bool) (s : State) : (errorEntry c d s).rx = s.rx := rfl

@[simp] theorem errorEntry_fecFailCnt (c : ErrCode) (d : Bool) (s : State) :
    (errorEntry c d s).fecFailCnt = s.fecFailCnt :=
  rfl

@[simp] theorem errorEntry_abortCnt (c : ErrCode) (d : Bool) (s : State) :
    (errorEntry c d s).abortCnt = s.abortCnt :=
  rfl

@[simp] theorem errorEntry_mem (c : ErrCode) (d : Bool) (s : State) : (errorEntry c d s).mem = s.mem := rfl

@[simp] theorem errorEntry_rst (c : ErrCode) (d : Bool) (s : State) : (errorEntry c d s).rst = s.rst := rfl

@[simp] theorem errorEntry_inputs (c : ErrCode) (d : Bool) (s : State) : (errorEntry c d s).inputs = s.inputs := rfl

@[simp] theorem errorEntry_response (c : ErrCode) (d : Bool) (s : State) :
    (errorEntry c d s).response = s.response :=
  rfl

/-! ## acknowledge -/

@[simp] theorem acknowledge_ctrl (v : Word) (s : State) : (acknowledge v s).ctrl = s.ctrl := rfl

@[simp] theorem acknowledge_result (v : Word) (s : State) : (acknowledge v s).result = s.result := rfl

@[simp] theorem acknowledge_ctx (v : Word) (s : State) : (acknowledge v s).ctx = s.ctx := rfl

@[simp] theorem acknowledge_act (v : Word) (s : State) : (acknowledge v s).act = s.act := rfl

@[simp] theorem acknowledge_tx (v : Word) (s : State) : (acknowledge v s).tx = s.tx := rfl

@[simp] theorem acknowledge_rx (v : Word) (s : State) : (acknowledge v s).rx = s.rx := rfl

@[simp] theorem acknowledge_fecFailCnt (v : Word) (s : State) : (acknowledge v s).fecFailCnt = s.fecFailCnt := rfl

@[simp] theorem acknowledge_abortCnt (v : Word) (s : State) : (acknowledge v s).abortCnt = s.abortCnt := rfl

@[simp] theorem acknowledge_mem (v : Word) (s : State) : (acknowledge v s).mem = s.mem := rfl

@[simp] theorem acknowledge_rst (v : Word) (s : State) : (acknowledge v s).rst = s.rst := rfl

@[simp] theorem acknowledge_inputs (v : Word) (s : State) : (acknowledge v s).inputs = s.inputs := rfl

@[simp] theorem acknowledge_response (v : Word) (s : State) : (acknowledge v s).response = s.response := rfl

/-! ## resetBlock -/

@[simp] theorem resetBlock_ctrl (s : State) : (resetBlock s).ctrl = State.reset.ctrl := rfl

@[simp] theorem resetBlock_status (s : State) : (resetBlock s).status = State.reset.status := rfl

@[simp] theorem resetBlock_result (s : State) : (resetBlock s).result = State.reset.result := rfl

@[simp] theorem resetBlock_ctx (s : State) : (resetBlock s).ctx = State.reset.ctx := rfl

@[simp] theorem resetBlock_act (s : State) : (resetBlock s).act = State.reset.act := rfl

@[simp] theorem resetBlock_tx (s : State) : (resetBlock s).tx = State.reset.tx := rfl

@[simp] theorem resetBlock_rx (s : State) : (resetBlock s).rx = State.reset.rx := rfl

@[simp] theorem resetBlock_fecFailCnt (s : State) : (resetBlock s).fecFailCnt = State.reset.fecFailCnt := rfl

@[simp] theorem resetBlock_abortCnt (s : State) : (resetBlock s).abortCnt = State.reset.abortCnt := rfl

@[simp] theorem resetBlock_mem (s : State) : (resetBlock s).mem = State.reset.mem := rfl

@[simp] theorem resetBlock_rst (s : State) : (resetBlock s).rst = s.rst := rfl

@[simp] theorem resetBlock_inputs (s : State) : (resetBlock s).inputs = s.inputs := rfl

@[simp] theorem resetBlock_response (s : State) : (resetBlock s).response = s.response := rfl

/-! ## respond -/

@[simp] theorem respond_ctrl (v : Word) (s : State) : (respond v s).ctrl = s.ctrl := rfl

@[simp] theorem respond_status (v : Word) (s : State) : (respond v s).status = s.status := rfl

@[simp] theorem respond_result (v : Word) (s : State) : (respond v s).result = s.result := rfl

@[simp] theorem respond_ctx (v : Word) (s : State) : (respond v s).ctx = s.ctx := rfl

@[simp] theorem respond_act (v : Word) (s : State) : (respond v s).act = s.act := rfl

@[simp] theorem respond_tx (v : Word) (s : State) : (respond v s).tx = s.tx := rfl

@[simp] theorem respond_rx (v : Word) (s : State) : (respond v s).rx = s.rx := rfl

@[simp] theorem respond_fecFailCnt (v : Word) (s : State) : (respond v s).fecFailCnt = s.fecFailCnt := rfl

@[simp] theorem respond_abortCnt (v : Word) (s : State) : (respond v s).abortCnt = s.abortCnt := rfl

@[simp] theorem respond_mem (v : Word) (s : State) : (respond v s).mem = s.mem := rfl

@[simp] theorem respond_rst (v : Word) (s : State) : (respond v s).rst = s.rst := rfl

@[simp] theorem respond_inputs (v : Word) (s : State) : (respond v s).inputs = s.inputs := rfl

@[simp] theorem respond_response (v : Word) (s : State) : (respond v s).response = some v := rfl

/-! ## busError -/

@[simp] theorem busError_ctrl (s : State) : (busError s).ctrl = s.ctrl := rfl

@[simp] theorem busError_status (s : State) :
    (busError s).status = { s.status with errCode := if s.status.err then s.status.errCode else errCodeValue .bus, err := true, done := s.status.done || false } :=
  rfl

@[simp] theorem busError_result (s : State) : (busError s).result = s.result := rfl

@[simp] theorem busError_ctx (s : State) : (busError s).ctx = s.ctx := rfl

@[simp] theorem busError_act (s : State) : (busError s).act = s.act := rfl

@[simp] theorem busError_tx (s : State) : (busError s).tx = s.tx := rfl

@[simp] theorem busError_rx (s : State) : (busError s).rx = s.rx := rfl

@[simp] theorem busError_fecFailCnt (s : State) : (busError s).fecFailCnt = s.fecFailCnt := rfl

@[simp] theorem busError_abortCnt (s : State) : (busError s).abortCnt = s.abortCnt := rfl

@[simp] theorem busError_mem (s : State) : (busError s).mem = s.mem := rfl

@[simp] theorem busError_rst (s : State) : (busError s).rst = s.rst := rfl

@[simp] theorem busError_inputs (s : State) : (busError s).inputs = s.inputs := rfl

@[simp] theorem busError_response (s : State) : (busError s).response = s.response := rfl

/-! ## writeDataOut -/

@[simp] theorem writeDataOut_ctrl {n : Nat} (v : BitVec n) (s : State) : (writeDataOut v s).ctrl = s.ctrl := rfl

@[simp] theorem writeDataOut_status {n : Nat} (v : BitVec n) (s : State) : (writeDataOut v s).status = s.status := rfl

@[simp] theorem writeDataOut_result {n : Nat} (v : BitVec n) (s : State) : (writeDataOut v s).result = s.result := rfl

@[simp] theorem writeDataOut_ctx {n : Nat} (v : BitVec n) (s : State) : (writeDataOut v s).ctx = s.ctx := rfl

@[simp] theorem writeDataOut_act {n : Nat} (v : BitVec n) (s : State) : (writeDataOut v s).act = s.act := rfl

@[simp] theorem writeDataOut_tx {n : Nat} (v : BitVec n) (s : State) : (writeDataOut v s).tx = s.tx := rfl

@[simp] theorem writeDataOut_rx {n : Nat} (v : BitVec n) (s : State) : (writeDataOut v s).rx = s.rx := rfl

@[simp] theorem writeDataOut_fecFailCnt {n : Nat} (v : BitVec n) (s : State) :
    (writeDataOut v s).fecFailCnt = s.fecFailCnt :=
  rfl

@[simp] theorem writeDataOut_abortCnt {n : Nat} (v : BitVec n) (s : State) :
    (writeDataOut v s).abortCnt = s.abortCnt :=
  rfl

@[simp] theorem writeDataOut_mem {n : Nat} (v : BitVec n) (s : State) :
    (writeDataOut v s).mem = (storeBuf .dataOut (padTo 256 v) s).mem :=
  rfl

@[simp] theorem writeDataOut_rst {n : Nat} (v : BitVec n) (s : State) : (writeDataOut v s).rst = s.rst := rfl

@[simp] theorem writeDataOut_inputs {n : Nat} (v : BitVec n) (s : State) : (writeDataOut v s).inputs = s.inputs := rfl

@[simp] theorem writeDataOut_response {n : Nat} (v : BitVec n) (s : State) :
    (writeDataOut v s).response = s.response :=
  rfl

/-! ## latch -/

@[simp] theorem latch_ctrl (s : State) : (latch s).ctrl = s.ctrl := rfl

@[simp] theorem latch_status (s : State) : (latch s).status = s.status := rfl

@[simp] theorem latch_result (s : State) : (latch s).result = s.result := rfl

@[simp] theorem latch_ctx (s : State) : (latch s).ctx = s.ctx := rfl

@[simp] theorem latch_act (s : State) : (latch s).act = s.ctx := rfl

@[simp] theorem latch_tx (s : State) : (latch s).tx = s.tx := rfl

@[simp] theorem latch_rx (s : State) : (latch s).rx = s.rx := rfl

@[simp] theorem latch_fecFailCnt (s : State) : (latch s).fecFailCnt = s.fecFailCnt := rfl

@[simp] theorem latch_abortCnt (s : State) : (latch s).abortCnt = s.abortCnt := rfl

@[simp] theorem latch_rst (s : State) : (latch s).rst = s.rst := rfl

@[simp] theorem latch_inputs (s : State) : (latch s).inputs = s.inputs := rfl

@[simp] theorem latch_response (s : State) : (latch s).response = s.response := rfl

/-! ## sendVoice -/

@[simp] theorem sendVoice_ctrl (s : State) : (sendVoice s).ctrl = s.ctrl := rfl

@[simp] theorem sendVoice_status (s : State) : (sendVoice s).status = s.status := rfl

@[simp] theorem sendVoice_result (s : State) : (sendVoice s).result = s.result := rfl

@[simp] theorem sendVoice_ctx (s : State) : (sendVoice s).ctx = s.ctx := rfl

@[simp] theorem sendVoice_act (s : State) : (sendVoice s).act = s.act := rfl

@[simp] theorem sendVoice_tx (s : State) :
    (sendVoice s).tx = { s.tx with pos := BitVec.ofNat 3 ((s.tx.pos.toNat + 1) % 6) } :=
  rfl

@[simp] theorem sendVoice_rx (s : State) : (sendVoice s).rx = s.rx := rfl

@[simp] theorem sendVoice_fecFailCnt (s : State) : (sendVoice s).fecFailCnt = s.fecFailCnt := rfl

@[simp] theorem sendVoice_abortCnt (s : State) : (sendVoice s).abortCnt = s.abortCnt := rfl

@[simp] theorem sendVoice_mem (s : State) :
    (sendVoice s).mem = (storeBuf .burstOut (voiceBurst (loadBuf 216 .voiceIn s) (voiceCenter s)) s).mem :=
  rfl

@[simp] theorem sendVoice_rst (s : State) : (sendVoice s).rst = s.rst := rfl

@[simp] theorem sendVoice_inputs (s : State) : (sendVoice s).inputs = s.inputs := rfl

@[simp] theorem sendVoice_response (s : State) : (sendVoice s).response = s.response := rfl

/-! ## noteOutcome -/

@[simp] theorem noteOutcome_ctrl (o : DecOutcome) (s : State) : (noteOutcome o s).ctrl = s.ctrl := rfl

@[simp] theorem noteOutcome_status (o : DecOutcome) (s : State) : (noteOutcome o s).status = s.status := rfl

@[simp] theorem noteOutcome_result (o : DecOutcome) (s : State) :
    (noteOutcome o s).result = recordOutcome o s.result :=
  rfl

@[simp] theorem noteOutcome_ctx (o : DecOutcome) (s : State) : (noteOutcome o s).ctx = s.ctx := rfl

@[simp] theorem noteOutcome_act (o : DecOutcome) (s : State) : (noteOutcome o s).act = s.act := rfl

@[simp] theorem noteOutcome_tx (o : DecOutcome) (s : State) : (noteOutcome o s).tx = s.tx := rfl

@[simp] theorem noteOutcome_rx (o : DecOutcome) (s : State) : (noteOutcome o s).rx = s.rx := rfl

@[simp] theorem noteOutcome_fecFailCnt (o : DecOutcome) (s : State) :
    (noteOutcome o s).fecFailCnt = s.fecFailCnt :=
  rfl

@[simp] theorem noteOutcome_abortCnt (o : DecOutcome) (s : State) : (noteOutcome o s).abortCnt = s.abortCnt := rfl

@[simp] theorem noteOutcome_mem (o : DecOutcome) (s : State) : (noteOutcome o s).mem = s.mem := rfl

@[simp] theorem noteOutcome_rst (o : DecOutcome) (s : State) : (noteOutcome o s).rst = s.rst := rfl

@[simp] theorem noteOutcome_inputs (o : DecOutcome) (s : State) : (noteOutcome o s).inputs = s.inputs := rfl

@[simp] theorem noteOutcome_response (o : DecOutcome) (s : State) : (noteOutcome o s).response = s.response := rfl

/-! ## setClass -/

@[simp] theorem setClass_ctrl (c : BitVec 4) (s : State) : (setClass c s).ctrl = s.ctrl := rfl

@[simp] theorem setClass_status (c : BitVec 4) (s : State) : (setClass c s).status = s.status := rfl

@[simp] theorem setClass_result (c : BitVec 4) (s : State) :
    (setClass c s).result = { s.result with rxClass := c } :=
  rfl

@[simp] theorem setClass_ctx (c : BitVec 4) (s : State) : (setClass c s).ctx = s.ctx := rfl

@[simp] theorem setClass_act (c : BitVec 4) (s : State) : (setClass c s).act = s.act := rfl

@[simp] theorem setClass_tx (c : BitVec 4) (s : State) : (setClass c s).tx = s.tx := rfl

@[simp] theorem setClass_rx (c : BitVec 4) (s : State) : (setClass c s).rx = s.rx := rfl

@[simp] theorem setClass_fecFailCnt (c : BitVec 4) (s : State) : (setClass c s).fecFailCnt = s.fecFailCnt := rfl

@[simp] theorem setClass_abortCnt (c : BitVec 4) (s : State) : (setClass c s).abortCnt = s.abortCnt := rfl

@[simp] theorem setClass_mem (c : BitVec 4) (s : State) : (setClass c s).mem = s.mem := rfl

@[simp] theorem setClass_rst (c : BitVec 4) (s : State) : (setClass c s).rst = s.rst := rfl

@[simp] theorem setClass_inputs (c : BitVec 4) (s : State) : (setClass c s).inputs = s.inputs := rfl

@[simp] theorem setClass_response (c : BitVec 4) (s : State) : (setClass c s).response = s.response := rfl

/-! ## setPl -/

@[simp] theorem setPl_ctrl (s : State) : (setPl s).ctrl = s.ctrl := rfl

@[simp] theorem setPl_status (s : State) : (setPl s).status = s.status := rfl

@[simp] theorem setPl_result (s : State) : (setPl s).result = { s.result with pl := true } := rfl

@[simp] theorem setPl_ctx (s : State) : (setPl s).ctx = s.ctx := rfl

@[simp] theorem setPl_act (s : State) : (setPl s).act = s.act := rfl

@[simp] theorem setPl_tx (s : State) : (setPl s).tx = s.tx := rfl

@[simp] theorem setPl_rx (s : State) : (setPl s).rx = s.rx := rfl

@[simp] theorem setPl_fecFailCnt (s : State) : (setPl s).fecFailCnt = s.fecFailCnt := rfl

@[simp] theorem setPl_abortCnt (s : State) : (setPl s).abortCnt = s.abortCnt := rfl

@[simp] theorem setPl_mem (s : State) : (setPl s).mem = s.mem := rfl

@[simp] theorem setPl_rst (s : State) : (setPl s).rst = s.rst := rfl

@[simp] theorem setPl_inputs (s : State) : (setPl s).inputs = s.inputs := rfl

@[simp] theorem setPl_response (s : State) : (setPl s).response = s.response := rfl

/-! ## dropBurst -/

@[simp] theorem dropBurst_ctrl (s : State) : (dropBurst s).ctrl = s.ctrl := rfl

@[simp] theorem dropBurst_status (s : State) : (dropBurst s).status = s.status := rfl

@[simp] theorem dropBurst_result (s : State) :
    (dropBurst s).result = { s.result with uncorr := true, rxClass := 4 } :=
  rfl

@[simp] theorem dropBurst_ctx (s : State) : (dropBurst s).ctx = s.ctx := rfl

@[simp] theorem dropBurst_act (s : State) : (dropBurst s).act = s.act := rfl

@[simp] theorem dropBurst_tx (s : State) : (dropBurst s).tx = s.tx := rfl

@[simp] theorem dropBurst_rx (s : State) : (dropBurst s).rx = s.rx := rfl

@[simp] theorem dropBurst_fecFailCnt (s : State) : (dropBurst s).fecFailCnt = s.fecFailCnt + 1 := rfl

@[simp] theorem dropBurst_abortCnt (s : State) : (dropBurst s).abortCnt = s.abortCnt := rfl

@[simp] theorem dropBurst_mem (s : State) : (dropBurst s).mem = s.mem := rfl

@[simp] theorem dropBurst_rst (s : State) : (dropBurst s).rst = s.rst := rfl

@[simp] theorem dropBurst_inputs (s : State) : (dropBurst s).inputs = s.inputs := rfl

@[simp] theorem dropBurst_response (s : State) : (dropBurst s).response = s.response := rfl

/-! ## surfaceLc -/

@[simp] theorem surfaceLc_ctrl (l : BitVec 72) (s : State) : (surfaceLc l s).ctrl = s.ctrl := rfl

@[simp] theorem surfaceLc_status (l : BitVec 72) (s : State) :
    (surfaceLc l s).status = { s.status with lcEv := true } :=
  rfl

@[simp] theorem surfaceLc_result (l : BitVec 72) (s : State) :
    (surfaceLc l s).result = { s.result with lc := true } :=
  rfl

@[simp] theorem surfaceLc_ctx (l : BitVec 72) (s : State) : (surfaceLc l s).ctx = s.ctx := rfl

@[simp] theorem surfaceLc_act (l : BitVec 72) (s : State) : (surfaceLc l s).act = s.act := rfl

@[simp] theorem surfaceLc_tx (l : BitVec 72) (s : State) : (surfaceLc l s).tx = s.tx := rfl

@[simp] theorem surfaceLc_rx (l : BitVec 72) (s : State) : (surfaceLc l s).rx = s.rx := rfl

@[simp] theorem surfaceLc_fecFailCnt (l : BitVec 72) (s : State) : (surfaceLc l s).fecFailCnt = s.fecFailCnt := rfl

@[simp] theorem surfaceLc_abortCnt (l : BitVec 72) (s : State) : (surfaceLc l s).abortCnt = s.abortCnt := rfl

@[simp] theorem surfaceLc_mem (l : BitVec 72) (s : State) : (surfaceLc l s).mem = (storeBuf .rxLc l s).mem := rfl

@[simp] theorem surfaceLc_rst (l : BitVec 72) (s : State) : (surfaceLc l s).rst = s.rst := rfl

@[simp] theorem surfaceLc_inputs (l : BitVec 72) (s : State) : (surfaceLc l s).inputs = s.inputs := rfl

@[simp] theorem surfaceLc_response (l : BitVec 72) (s : State) : (surfaceLc l s).response = s.response := rfl

/-! ## setRxPos -/

@[simp] theorem setRxPos_ctrl (p : BitVec 3) (s : State) : (setRxPos p s).ctrl = s.ctrl := rfl

@[simp] theorem setRxPos_status (p : BitVec 3) (s : State) : (setRxPos p s).status = s.status := rfl

@[simp] theorem setRxPos_result (p : BitVec 3) (s : State) : (setRxPos p s).result = s.result := rfl

@[simp] theorem setRxPos_ctx (p : BitVec 3) (s : State) : (setRxPos p s).ctx = s.ctx := rfl

@[simp] theorem setRxPos_act (p : BitVec 3) (s : State) : (setRxPos p s).act = s.act := rfl

@[simp] theorem setRxPos_tx (p : BitVec 3) (s : State) : (setRxPos p s).tx = s.tx := rfl

@[simp] theorem setRxPos_rx (p : BitVec 3) (s : State) : (setRxPos p s).rx = { s.rx with pos := p } := rfl

@[simp] theorem setRxPos_fecFailCnt (p : BitVec 3) (s : State) : (setRxPos p s).fecFailCnt = s.fecFailCnt := rfl

@[simp] theorem setRxPos_abortCnt (p : BitVec 3) (s : State) : (setRxPos p s).abortCnt = s.abortCnt := rfl

@[simp] theorem setRxPos_mem (p : BitVec 3) (s : State) : (setRxPos p s).mem = s.mem := rfl

@[simp] theorem setRxPos_rst (p : BitVec 3) (s : State) : (setRxPos p s).rst = s.rst := rfl

@[simp] theorem setRxPos_inputs (p : BitVec 3) (s : State) : (setRxPos p s).inputs = s.inputs := rfl

@[simp] theorem setRxPos_response (p : BitVec 3) (s : State) : (setRxPos p s).response = s.response := rfl

/-! ## restartReassembly -/

@[simp] theorem restartReassembly_ctrl (p : BitVec 3) (s : State) : (restartReassembly p s).ctrl = s.ctrl := rfl

@[simp] theorem restartReassembly_status (p : BitVec 3) (s : State) : (restartReassembly p s).status = s.status := rfl

@[simp] theorem restartReassembly_result (p : BitVec 3) (s : State) : (restartReassembly p s).result = s.result := rfl

@[simp] theorem restartReassembly_ctx (p : BitVec 3) (s : State) : (restartReassembly p s).ctx = s.ctx := rfl

@[simp] theorem restartReassembly_act (p : BitVec 3) (s : State) : (restartReassembly p s).act = s.act := rfl

@[simp] theorem restartReassembly_tx (p : BitVec 3) (s : State) : (restartReassembly p s).tx = s.tx := rfl

@[simp] theorem restartReassembly_rx (p : BitVec 3) (s : State) :
    (restartReassembly p s).rx = { s.rx with pos := p, abort := false, fragMask := 0 } :=
  rfl

@[simp] theorem restartReassembly_fecFailCnt (p : BitVec 3) (s : State) :
    (restartReassembly p s).fecFailCnt = s.fecFailCnt :=
  rfl

@[simp] theorem restartReassembly_abortCnt (p : BitVec 3) (s : State) :
    (restartReassembly p s).abortCnt = s.abortCnt :=
  rfl

@[simp] theorem restartReassembly_mem (p : BitVec 3) (s : State) :
    (restartReassembly p s).mem = (storeBuf .rxFrag 0#128 s).mem :=
  rfl

@[simp] theorem restartReassembly_rst (p : BitVec 3) (s : State) : (restartReassembly p s).rst = s.rst := rfl

@[simp] theorem restartReassembly_inputs (p : BitVec 3) (s : State) : (restartReassembly p s).inputs = s.inputs := rfl

@[simp] theorem restartReassembly_response (p : BitVec 3) (s : State) :
    (restartReassembly p s).response = s.response :=
  rfl

/-! ## clearOutputs -/

@[simp] theorem clearOutputs_ctrl (s : State) : (clearOutputs s).ctrl = s.ctrl := by
  simp [clearOutputs]

@[simp] theorem clearOutputs_status (s : State) : (clearOutputs s).status = s.status := by
  simp [clearOutputs]

@[simp] theorem clearOutputs_result (s : State) : (clearOutputs s).result = s.result := by
  simp [clearOutputs]

@[simp] theorem clearOutputs_ctx (s : State) : (clearOutputs s).ctx = s.ctx := by
  simp [clearOutputs]

@[simp] theorem clearOutputs_act (s : State) : (clearOutputs s).act = s.act := by
  simp [clearOutputs]

@[simp] theorem clearOutputs_tx (s : State) : (clearOutputs s).tx = s.tx := by
  simp [clearOutputs]

@[simp] theorem clearOutputs_rx (s : State) : (clearOutputs s).rx = s.rx := by
  simp [clearOutputs]

@[simp] theorem clearOutputs_fecFailCnt (s : State) : (clearOutputs s).fecFailCnt = s.fecFailCnt := by
  simp [clearOutputs]

@[simp] theorem clearOutputs_abortCnt (s : State) : (clearOutputs s).abortCnt = s.abortCnt := by
  simp [clearOutputs]

@[simp] theorem clearOutputs_mem (s : State) :
    (clearOutputs s).mem = (storeBuf .dataOut 0#256 (storeBuf .voiceOut 0#216 s)).mem :=
  rfl

@[simp] theorem clearOutputs_rst (s : State) : (clearOutputs s).rst = s.rst := by
  simp [clearOutputs]

@[simp] theorem clearOutputs_inputs (s : State) : (clearOutputs s).inputs = s.inputs := by
  simp [clearOutputs]

@[simp] theorem clearOutputs_response (s : State) : (clearOutputs s).response = s.response := by
  simp [clearOutputs]

/-! ## handOverVoice -/

@[simp] theorem handOverVoice_ctrl (b : BitVec 264) (c : BitVec 4) (s : State) :
    (handOverVoice b c s).ctrl = s.ctrl :=
  rfl

@[simp] theorem handOverVoice_status (b : BitVec 264) (c : BitVec 4) (s : State) :
    (handOverVoice b c s).status = s.status :=
  rfl

@[simp] theorem handOverVoice_result (b : BitVec 264) (c : BitVec 4) (s : State) :
    (handOverVoice b c s).result = { s.result with pl := true, rxClass := c } :=
  rfl

@[simp] theorem handOverVoice_ctx (b : BitVec 264) (c : BitVec 4) (s : State) :
    (handOverVoice b c s).ctx = s.ctx :=
  rfl

@[simp] theorem handOverVoice_act (b : BitVec 264) (c : BitVec 4) (s : State) :
    (handOverVoice b c s).act = s.act :=
  rfl

@[simp] theorem handOverVoice_tx (b : BitVec 264) (c : BitVec 4) (s : State) : (handOverVoice b c s).tx = s.tx := rfl

@[simp] theorem handOverVoice_rx (b : BitVec 264) (c : BitVec 4) (s : State) : (handOverVoice b c s).rx = s.rx := rfl

@[simp] theorem handOverVoice_fecFailCnt (b : BitVec 264) (c : BitVec 4) (s : State) :
    (handOverVoice b c s).fecFailCnt = s.fecFailCnt :=
  rfl

@[simp] theorem handOverVoice_abortCnt (b : BitVec 264) (c : BitVec 4) (s : State) :
    (handOverVoice b c s).abortCnt = s.abortCnt :=
  rfl

@[simp] theorem handOverVoice_mem (b : BitVec 264) (c : BitVec 4) (s : State) :
    (handOverVoice b c s).mem = (storeBuf .voiceOut (voiceOf b) s).mem :=
  rfl

@[simp] theorem handOverVoice_rst (b : BitVec 264) (c : BitVec 4) (s : State) :
    (handOverVoice b c s).rst = s.rst :=
  rfl

@[simp] theorem handOverVoice_inputs (b : BitVec 264) (c : BitVec 4) (s : State) :
    (handOverVoice b c s).inputs = s.inputs :=
  rfl

@[simp] theorem handOverVoice_response (b : BitVec 264) (c : BitVec 4) (s : State) :
    (handOverVoice b c s).response = s.response :=
  rfl

/-! ## noteEmb -/

@[simp] theorem noteEmb_ctrl (v : BitVec 7) (o : DecOutcome) (p : BitVec 3) (s : State) :
    (noteEmb v o p s).ctrl = s.ctrl :=
  rfl

@[simp] theorem noteEmb_status (v : BitVec 7) (o : DecOutcome) (p : BitVec 3) (s : State) :
    (noteEmb v o p s).status = s.status :=
  rfl

@[simp] theorem noteEmb_result (v : BitVec 7) (o : DecOutcome) (p : BitVec 3) (s : State) :
    (noteEmb v o p s).result = recordOutcome o s.result :=
  rfl

@[simp] theorem noteEmb_ctx (v : BitVec 7) (o : DecOutcome) (p : BitVec 3) (s : State) :
    (noteEmb v o p s).ctx = s.ctx :=
  rfl

@[simp] theorem noteEmb_act (v : BitVec 7) (o : DecOutcome) (p : BitVec 3) (s : State) :
    (noteEmb v o p s).act = s.act :=
  rfl

@[simp] theorem noteEmb_tx (v : BitVec 7) (o : DecOutcome) (p : BitVec 3) (s : State) :
    (noteEmb v o p s).tx = s.tx :=
  rfl

@[simp] theorem noteEmb_rx (v : BitVec 7) (o : DecOutcome) (p : BitVec 3) (s : State) :
    (noteEmb v o p s).rx = { s.rx with cc := v.extractLsb' 3 4, pi := v.getLsbD 2, lcss := v.extractLsb' 0 2, pos := p } :=
  rfl

@[simp] theorem noteEmb_fecFailCnt (v : BitVec 7) (o : DecOutcome) (p : BitVec 3) (s : State) :
    (noteEmb v o p s).fecFailCnt = s.fecFailCnt :=
  rfl

@[simp] theorem noteEmb_abortCnt (v : BitVec 7) (o : DecOutcome) (p : BitVec 3) (s : State) :
    (noteEmb v o p s).abortCnt = s.abortCnt :=
  rfl

@[simp] theorem noteEmb_mem (v : BitVec 7) (o : DecOutcome) (p : BitVec 3) (s : State) :
    (noteEmb v o p s).mem = s.mem :=
  rfl

@[simp] theorem noteEmb_rst (v : BitVec 7) (o : DecOutcome) (p : BitVec 3) (s : State) :
    (noteEmb v o p s).rst = s.rst :=
  rfl

@[simp] theorem noteEmb_inputs (v : BitVec 7) (o : DecOutcome) (p : BitVec 3) (s : State) :
    (noteEmb v o p s).inputs = s.inputs :=
  rfl

@[simp] theorem noteEmb_response (v : BitVec 7) (o : DecOutcome) (p : BitVec 3) (s : State) :
    (noteEmb v o p s).response = s.response :=
  rfl

/-! ## countPending -/

@[simp] theorem countPending_ctrl (s : State) :
    (countPending s).ctrl = s.ctrl :=
  by unfold countPending; split <;> rfl

@[simp] theorem countPending_status (s : State) :
    (countPending s).status = s.status :=
  by unfold countPending; split <;> rfl

@[simp] theorem countPending_result (s : State) :
    (countPending s).result = s.result :=
  by unfold countPending; split <;> rfl

@[simp] theorem countPending_ctx (s : State) : (countPending s).ctx = s.ctx := by unfold countPending; split <;> rfl

@[simp] theorem countPending_act (s : State) : (countPending s).act = s.act := by unfold countPending; split <;> rfl

@[simp] theorem countPending_tx (s : State) : (countPending s).tx = s.tx := by unfold countPending; split <;> rfl

@[simp] theorem countPending_rx (s : State) : (countPending s).rx = s.rx := by unfold countPending; split <;> rfl

@[simp] theorem countPending_fecFailCnt (s : State) :
    (countPending s).fecFailCnt = s.fecFailCnt :=
  by unfold countPending; split <;> rfl

@[simp] theorem countPending_abortCnt (s : State) :
    (countPending s).abortCnt = if reassemblyPending s then s.abortCnt + 1 else s.abortCnt :=
  by unfold countPending; split <;> rfl

@[simp] theorem countPending_mem (s : State) : (countPending s).mem = s.mem := by unfold countPending; split <;> rfl

@[simp] theorem countPending_rst (s : State) : (countPending s).rst = s.rst := by unfold countPending; split <;> rfl

@[simp] theorem countPending_inputs (s : State) :
    (countPending s).inputs = s.inputs :=
  by unfold countPending; split <;> rfl

@[simp] theorem countPending_response (s : State) :
    (countPending s).response = s.response :=
  by unfold countPending; split <;> rfl

/-! ## abortSf -/

@[simp] theorem abortSf_ctrl (s : State) : (abortSf s).ctrl = s.ctrl := by unfold abortSf; split <;> rfl

@[simp] theorem abortSf_status (s : State) : (abortSf s).status = s.status := by unfold abortSf; split <;> rfl

@[simp] theorem abortSf_result (s : State) : (abortSf s).result = s.result := by unfold abortSf; split <;> rfl

@[simp] theorem abortSf_ctx (s : State) : (abortSf s).ctx = s.ctx := by unfold abortSf; split <;> rfl

@[simp] theorem abortSf_act (s : State) : (abortSf s).act = s.act := by unfold abortSf; split <;> rfl

@[simp] theorem abortSf_tx (s : State) : (abortSf s).tx = s.tx := by unfold abortSf; split <;> rfl

@[simp] theorem abortSf_rx (s : State) :
    (abortSf s).rx = { s.rx with abort := true } := by
  unfold abortSf
  split
  · rename_i h; cases hs : s.rx; simp_all
  · rfl

@[simp] theorem abortSf_fecFailCnt (s : State) :
    (abortSf s).fecFailCnt = s.fecFailCnt :=
  by unfold abortSf; split <;> rfl

@[simp] theorem abortSf_abortCnt (s : State) :
    (abortSf s).abortCnt = if s.rx.abort then s.abortCnt else s.abortCnt + 1 :=
  by unfold abortSf; split <;> rfl

@[simp] theorem abortSf_mem (s : State) : (abortSf s).mem = s.mem := by unfold abortSf; split <;> rfl

@[simp] theorem abortSf_rst (s : State) : (abortSf s).rst = s.rst := by unfold abortSf; split <;> rfl

@[simp] theorem abortSf_inputs (s : State) : (abortSf s).inputs = s.inputs := by unfold abortSf; split <;> rfl

@[simp] theorem abortSf_response (s : State) : (abortSf s).response = s.response := by unfold abortSf; split <;> rfl

end Sys2Proof.Machine
end

