-- ==== Sys2Proof/Laws/Commands.lean ====
section
/-! SUPPORT. What the frame of a command (30_encoding.md R152) and the shared rules of the DATA_IN commands can do. -/

namespace Sys2Proof.Machine

/-! ## The frame of a command -/

theorem runCommand_ok {rule : State → Except ErrCode State} {s t : State} (h : rule (clearResult s) = .ok t) :
    runCommand rule s = .next (setDone t) := by
  simp only [runCommand, h]

theorem runCommand_error {rule : State → Except ErrCode State} {s : State} {c : ErrCode}
    (h : rule (clearResult s) = .error c) : runCommand rule s = .next (errorEntry c true (clearResult s)) := by
  simp only [runCommand, h]

/-- Everything the frame can answer: the rule's state with DONE set, or the error entry. -/
theorem runCommand_cases {rule : State → Except ErrCode State} {s t : State} (h : runCommand rule s = .next t) :
    (∃ u, rule (clearResult s) = .ok u ∧ t = setDone u) ∨
      (∃ c, rule (clearResult s) = .error c ∧ t = errorEntry c true (clearResult s)) := by
  unfold runCommand at h
  split at h
  · rename_i u hu
    exact .inl ⟨u, hu, by cases h; rfl⟩
  · rename_i c hc
    exact .inr ⟨c, hc, by cases h; rfl⟩

/-- The frame always answers a next state. -/
theorem runCommand_next (rule : State → Except ErrCode State) (s : State) : ∃ t, runCommand rule s = .next t := by
  unfold runCommand
  split
  · exact ⟨_, rfl⟩
  · exact ⟨_, rfl⟩

/-- Every command answers a next state. -/
theorem exec_next (i : Instr) (s : State) : ∃ t, exec i s = .next t := by
  cases i <;> simp only [exec, execNop, execSoftReset, execClrCnt, execH15Enc, execH15Dec, execH13Enc, execH13Dec,
    execH16Enc, execH16Dec, execQrEnc, execQrDec, execGolEnc, execGolDec, execBptcEnc, execBptcDec, execEmbEnc,
    execEmbDec, execCallStart, execTxHdr, execTxVoice, execTxTerm, execTxData, execRxBurst, execRxReset, execLcBuild,
    execRsEnc, execRsChk, execCs5] <;> exact runCommand_next _ s

/-! ## Buffers under the updates that store nothing -/

@[simp] theorem loadBuf_clearResult (w : Nat) (b : Buf) (s : State) : loadBuf w b (clearResult s) = loadBuf w b s := rfl

@[simp] theorem loadBuf_setDone (w : Nat) (b : Buf) (s : State) : loadBuf w b (setDone s) = loadBuf w b s := rfl

@[simp] theorem loadBuf_errorEntry (w : Nat) (b : Buf) (c : ErrCode) (d : Bool) (s : State) :
    loadBuf w b (errorEntry c d s) = loadBuf w b s := rfl

@[simp] theorem dataInBits_clearResult (n : Nat) (s : State) : dataInBits n (clearResult s) = dataInBits n s := rfl

/-! ## DATA_OUT -/

/-- A result reads back from DATA_OUT padded with zeros (10_state.md R65). -/
@[simp] theorem loadBuf_writeDataOut {n : Nat} (v : BitVec n) (s : State) :
    loadBuf 256 .dataOut (writeDataOut v s) = padTo 256 v := loadBuf_storeBuf_same .dataOut _ _ rfl

theorem loadBuf_writeDataOut_other {n : Nat} (w : Nat) (b : Buf) (v : BitVec n) (s : State) (h : b ≠ .dataOut) :
    loadBuf w b (writeDataOut v s) = loadBuf w b s := loadBuf_storeBuf_other w b .dataOut _ _ h

theorem memRead_writeDataOut_outside {n : Nat} (v : BitVec n) (s : State) (a : Nat) (h : inBuf .dataOut a = false) :
    memRead (writeDataOut v s).mem a = memRead s.mem a := memRead_storeBuf_outside .dataOut _ s a h

theorem memWf_writeDataOut {n : Nat} (v : BitVec n) (s : State) (h : memWf s.mem = true) :
    memWf (writeDataOut v s).mem = true := memWf_storeBuf .dataOut _ s h

/-- What an encoder command answers (43_fec_block.md R350). -/
theorem runCommand_encoderRule {k n : Nat} (enc : BitVec k → BitVec n) (s : State) :
    runCommand (encoderRule enc) s = .next (setDone (writeDataOut (enc (dataInBits k s)) (clearResult s))) :=
  runCommand_ok rfl

/-- What a decoder command answers (43_fec_block.md R350). -/
theorem runCommand_decoderRule {n k : Nat} (dec : BitVec n → BitVec k × DecOutcome) (s : State) :
    runCommand (decoderRule dec) s = .next (setDone
      { writeDataOut (dec (dataInBits n s)).1 (clearResult s) with
        result := recordOutcome (dec (dataInBits n s)).2 clearedResult }) :=
  runCommand_ok rfl

end Sys2Proof.Machine
end

