-- ==== Sys2Proof/Laws/PerInstr.lean ====
section
/-! SUPPORT. Facts about every command as syntax, one lemma per constructor. -/

namespace Sys2Proof.Laws.EncodingFields

/-- The fields of a command's word (30_encoding.md R150): MBZ is zero, ARG and OP are the command's. -/
def Statement (i : Instr) : Prop :=
  (encode i).extractLsb' 12 20 = 0 ∧ (encode i).extractLsb' 8 4 = argOf i ∧ (encode i).extractLsb' 0 8 = opcodeOf i

/-- The three fields of a word put together from them. -/
theorem fields_of_append (a : BitVec 4) (o : BitVec 8) :
    (0#20 ++ a ++ o).extractLsb' 12 20 = 0 ∧ (0#20 ++ a ++ o).extractLsb' 8 4 = a ∧
      (0#20 ++ a ++ o).extractLsb' 0 8 = o := by
  refine ⟨?_, ?_, ?_⟩ <;> apply BitVec.eq_of_getLsbD_eq <;> intro i hi <;>
    simp only [BitVec.getLsbD_extractLsb', BitVec.getLsbD_append, BitVec.getLsbD_zero, hi, decide_true, Bool.true_and]
  · have h1 : ¬ 12 + i < 8 := by omega
    have h2 : ¬ 12 + i - 8 < 4 := by omega
    simp [h1, h2]
  · have h1 : ¬ 8 + i < 8 := by omega
    have h2 : 8 + i - 8 = i := by omega
    simp [h1, h2, hi]
  · simp [hi]

theorem nop : Statement .nop := fields_of_append _ _

theorem softReset : Statement .softReset := fields_of_append _ _

theorem clrCnt : Statement .clrCnt := fields_of_append _ _

theorem h15Enc : Statement .h15Enc := fields_of_append _ _

theorem h15Dec : Statement .h15Dec := fields_of_append _ _

theorem h13Enc : Statement .h13Enc := fields_of_append _ _

theorem h13Dec : Statement .h13Dec := fields_of_append _ _

theorem h16Enc : Statement .h16Enc := fields_of_append _ _

theorem h16Dec : Statement .h16Dec := fields_of_append _ _

theorem qrEnc : Statement .qrEnc := fields_of_append _ _

theorem qrDec : Statement .qrDec := fields_of_append _ _

theorem golEnc : Statement .golEnc := fields_of_append _ _

theorem golDec : Statement .golDec := fields_of_append _ _

theorem bptcEnc : Statement .bptcEnc := fields_of_append _ _

theorem bptcDec : Statement .bptcDec := fields_of_append _ _

theorem embEnc : Statement .embEnc := fields_of_append _ _

theorem embDec : Statement .embDec := fields_of_append _ _

theorem callStart : Statement .callStart := fields_of_append _ _

theorem txHdr : Statement .txHdr := fields_of_append _ _

theorem txVoice : Statement .txVoice := fields_of_append _ _

theorem txTerm : Statement .txTerm := fields_of_append _ _

theorem txData (dt : BitVec 4) : Statement (.txData dt) := fields_of_append _ _

theorem rxBurst : Statement .rxBurst := fields_of_append _ _

theorem rxReset : Statement .rxReset := fields_of_append _ _

theorem lcBuild : Statement .lcBuild := fields_of_append _ _

theorem rsEnc (mask : BitVec 4) : Statement (.rsEnc mask) := fields_of_append _ _

theorem rsChk (mask : BitVec 4) : Statement (.rsChk mask) := fields_of_append _ _

theorem cs5 : Statement .cs5 := fields_of_append _ _

end Sys2Proof.Laws.EncodingFields
end

