-- ==== Sys2Proof/Tests/Slice0.lean ====
section
/-! SUPPORT. The model's own tests: ill-formed commands, the words of the opcode map written out bit by bit, at most
two small steps for each command with the expected values of 95_test_vectors.md, and a witness for the hypotheses of
every statement that has some. -/

namespace Sys2Proof.Tests

-- One theorem at a time, so that their kernel evaluations do not add up in memory.
set_option Elab.async false

open Sys2Proof.Machine Sys2Proof.Claims

/-! ## Well-formedness -/

/-- 30_encoding.md R154: TX_DATA's data type is at most 11. -/
theorem test_illformed_txData : (Instr.txData 12).wellFormed = false ∧ (Instr.txData 11).wellFormed = true := by decide

/-- 30_encoding.md R154: RS_ENC's mask select is at most 2. -/
theorem test_illformed_rsEnc : (Instr.rsEnc 3).wellFormed = false ∧ (Instr.rsEnc 2).wellFormed = true := by decide

/-- 30_encoding.md R154: RS_CHK's mask select is at most 2. -/
theorem test_illformed_rsChk : (Instr.rsChk 3).wellFormed = false ∧ (Instr.rsChk 2).wellFormed = true := by decide

/-! ## Words, written as MBZ (31:12), ARG (11:8), OP (7:0) from 30_encoding.md R150, R153 -/

/-- The command of a word, if it is legal. -/
def commandOf (v : Word) : Option Instr :=
  match decode v with
  | .ok i => some i
  | .error _ => none

/-- Why a word is not legal. -/
def reasonOf (v : Word) : Option DecodeError :=
  match decode v with
  | .ok _ => none
  | .error e => some e

theorem test_decode_nop : commandOf (0#20 ++ 0b0000#4 ++ 0b00000000#8) = some .nop := by decide
theorem test_decode_softReset : commandOf (0#20 ++ 0b0000#4 ++ 0b00000001#8) = some .softReset := by decide
theorem test_decode_clrCnt : commandOf (0#20 ++ 0b0000#4 ++ 0b00000010#8) = some .clrCnt := by decide
theorem test_decode_h15Enc : commandOf (0#20 ++ 0b0000#4 ++ 0b00010000#8) = some .h15Enc := by decide
theorem test_decode_h15Dec : commandOf (0#20 ++ 0b0000#4 ++ 0b00010001#8) = some .h15Dec := by decide
theorem test_decode_h13Enc : commandOf (0#20 ++ 0b0000#4 ++ 0b00010010#8) = some .h13Enc := by decide
theorem test_decode_h13Dec : commandOf (0#20 ++ 0b0000#4 ++ 0b00010011#8) = some .h13Dec := by decide
theorem test_decode_h16Enc : commandOf (0#20 ++ 0b0000#4 ++ 0b00010100#8) = some .h16Enc := by decide
theorem test_decode_h16Dec : commandOf (0#20 ++ 0b0000#4 ++ 0b00010101#8) = some .h16Dec := by decide
theorem test_decode_qrEnc : commandOf (0#20 ++ 0b0000#4 ++ 0b00010110#8) = some .qrEnc := by decide
theorem test_decode_qrDec : commandOf (0#20 ++ 0b0000#4 ++ 0b00010111#8) = some .qrDec := by decide
theorem test_decode_golEnc : commandOf (0#20 ++ 0b0000#4 ++ 0b00011000#8) = some .golEnc := by decide
theorem test_decode_golDec : commandOf (0#20 ++ 0b0000#4 ++ 0b00011001#8) = some .golDec := by decide
theorem test_decode_bptcEnc : commandOf (0#20 ++ 0b0000#4 ++ 0b00100000#8) = some .bptcEnc := by decide
theorem test_decode_bptcDec : commandOf (0#20 ++ 0b0000#4 ++ 0b00100001#8) = some .bptcDec := by decide
theorem test_decode_embEnc : commandOf (0#20 ++ 0b0000#4 ++ 0b00100010#8) = some .embEnc := by decide
theorem test_decode_embDec : commandOf (0#20 ++ 0b0000#4 ++ 0b00100011#8) = some .embDec := by decide
theorem test_decode_callStart : commandOf (0#20 ++ 0b0000#4 ++ 0b00110000#8) = some .callStart := by decide
theorem test_decode_txHdr : commandOf (0#20 ++ 0b0000#4 ++ 0b00110001#8) = some .txHdr := by decide
theorem test_decode_txVoice : commandOf (0#20 ++ 0b0000#4 ++ 0b00110010#8) = some .txVoice := by decide
theorem test_decode_txTerm : commandOf (0#20 ++ 0b0000#4 ++ 0b00110011#8) = some .txTerm := by decide
theorem test_decode_txData : commandOf (0#20 ++ 0b1001#4 ++ 0b00110100#8) = some (.txData 9) := by decide
theorem test_decode_rxBurst : commandOf (0#20 ++ 0b0000#4 ++ 0b01000000#8) = some .rxBurst := by decide
theorem test_decode_rxReset : commandOf (0#20 ++ 0b0000#4 ++ 0b01000001#8) = some .rxReset := by decide
theorem test_decode_lcBuild : commandOf (0#20 ++ 0b0000#4 ++ 0b01010000#8) = some .lcBuild := by decide
theorem test_decode_rsEnc : commandOf (0#20 ++ 0b0001#4 ++ 0b01010001#8) = some (.rsEnc 1) := by decide
theorem test_decode_rsChk : commandOf (0#20 ++ 0b0010#4 ++ 0b01010010#8) = some (.rsChk 2) := by decide
theorem test_decode_cs5 : commandOf (0#20 ++ 0b0000#4 ++ 0b01010011#8) = some .cs5 := by decide

/-- 30_encoding.md R151.1: each end of MBZ. -/
theorem test_reject_mbz : reasonOf 0x00001000 = some .mbzNotZero ∧ reasonOf 0x80000000 = some .mbzNotZero := by decide

/-- 30_encoding.md R155: the ends of the reserved ranges. -/
theorem test_reject_reserved :
    ∀ op ∈ [0x03, 0x0F, 0x1A, 0x1F, 0x24, 0x2F, 0x35, 0x3F, 0x42, 0x4F, 0x54, 0xFF],
      reasonOf (BitVec.ofNat 32 op) = some .reservedOpcode := by decide

/-- 30_encoding.md R154: ARG one above each range, and an ARG where none is allowed. -/
theorem test_reject_arg :
    ∀ v ∈ [0xC34, 0xF34, 0x351, 0x352, 0x100, 0x310, 0x153, 0xF40],
      reasonOf (BitVec.ofNat 32 v) = some .argOutOfRange := by decide

/-! ## Runs of one command -/

/-- The state of an outcome. -/
def after (o : Host.Outcome State Fault Refusal) : State :=
  match o with
  | .next t => t
  | .fault _ => State.reset
  | .refused _ => State.reset

/-- The outcome is a next state. -/
def runs (o : Host.Outcome State Fault Refusal) : Bool :=
  match o with
  | .next _ => true
  | .fault _ => false
  | .refused _ => false

theorem next_of_runs (o : Host.Outcome State Fault Refusal) (h : runs o = true) : o = .next (after o) := by
  cases o <;> simp_all [runs, after]

/-- The state after the host writes a command word. -/
def cmd (w : Nat) (s : State) : State := after (step (s.withFetchWord 32 w))

/-- n bytes at the start of a buffer of DATA_IN's or DATA_OUT's size, zeros after them. -/
def lead (n v : Nat) : BitVec 256 := padTo 256 (BitVec.ofNat (8 * n) v)

/-- The reset state with n bytes in DATA_IN. -/
def given (n v : Nat) : State := storeBuf .dataIn (lead n v) State.reset

/-- DATA_OUT, RESULT and STATUS after one command on n bytes of DATA_IN. -/
def dataRun (w n v : Nat) : BitVec 256 × Word × Word :=
  let t := cmd w (given n v)
  (loadBuf 256 .dataOut t, resultWord t.result, statusWord t.status)

/-- The context K1 of 95_test_vectors.md. -/
def k1 : Context := { cc := 1, ts := false, priv := false, dst := 9, src := 0x12D687, fid := 0, so := 0 }

/-- The reset state with K1 in the shadow context and V in VOICE_IN. -/
def ready : State :=
  storeBuf .voiceIn 0x000102030405060708090A0B0C0D0E0F101112131415161718191A#216 { State.reset with ctx := k1 }

/-- A call with K1 active at position A. -/
def calling : State :=
  storeBuf .embTx 0x03000F00050C0006030F090506060605#128 (storeBuf .lcAct 0x000000000912D687#72
    { ready with act := k1, tx := { pos := 0, active := true } })

/-- The bursts of 95_test_vectors.md section 2.5.1. -/
def burstH : BitVec 264 := 0x028F083403680F981A203F20C46DFF57D75DF5DE33D8174813A004405401BB00AE
/-- The voice burst at A. -/
def burstA : BitVec 264 := 0x000102030405060708090A0B0C0755FD7DF75F7D0E0F101112131415161718191A
/-- The voice burst at B. -/
def burstB : BitVec 264 := 0x000102030405060708090A0B0C01303000F0091D0E0F101112131415161718191A
/-- The voice burst at E. -/
def burstE : BitVec 264 := 0x000102030405060708090A0B0C0150606060507D0E0F101112131415161718191A
/-- The terminator. -/
def burstT : BitVec 264 := 0x02E008E003D80FE01A503F80C4ADFF57D75DF5D966CC147014C008005C01A2009D

/-- The state with a burst in BURST_IN. -/
def got (b : BitVec 264) (s : State) : State := storeBuf .burstIn b s

/-- The receiver before E: H and A to D of the call received without an error. -/
def beforeE : State :=
  storeBuf .rxFrag 0x03000F00050C0006030F090500000000#128
    { State.reset with rx := { State.reset.rx with pos := 3, fragMask := 7, dt := 1 } }

theorem test_nop : statusWord (cmd 0x00 State.reset).status = 0x00000001 := by decide +kernel

/-- Section 2.1: SOFT_RESET after a call leaves the reset state but for DONE. -/
theorem test_softReset :
    cmd 0x01 calling = { State.reset with status := { State.reset.status with done := true } } := by decide +kernel

theorem test_clrCnt :
    let t := cmd 0x02 { State.reset with fecFailCnt := 1, abortCnt := 1 }
    t.fecFailCnt = 0 ∧ t.abortCnt = 0 ∧ rxStateWord t.rx = 0x00000007 := by decide +kernel

theorem test_h15Enc : dataRun 0x10 2 0xB4A0 = (lead 2 0xB4BA, 0, 1) := by decide +kernel
theorem test_h15Dec : dataRun 0x11 2 0x34BA = (lead 2 0xB4A0, 0x101, 1) := by decide +kernel
theorem test_h15Dec_miscorrects : dataRun 0x11 2 0x74BA = (lead 2 0x74A0, 0x101, 1) := by decide +kernel
theorem test_h13Enc : dataRun 0x12 2 0x5580 = (lead 2 0x55D0, 0, 1) := by decide +kernel
theorem test_h13Dec : dataRun 0x13 2 0xD5D0 = (lead 2 0x5580, 0x101, 1) := by decide +kernel
theorem test_h13Dec_fails : dataRun 0x13 2 0x5598 = (0, 0x2, 1) := by decide +kernel
theorem test_h16Enc : dataRun 0x14 2 0xB4A0 = (lead 2 0xB4BB, 0, 1) := by decide +kernel
theorem test_h16Dec : dataRun 0x15 2 0x34BB = (lead 2 0xB4A0, 0x101, 1) := by decide +kernel
theorem test_h16Dec_fails : dataRun 0x15 2 0x34BA = (0, 0x2, 1) := by decide +kernel
theorem test_qrEnc : dataRun 0x16 1 0x12 = (lead 2 0x1391, 0, 1) := by decide +kernel
theorem test_qrDec : dataRun 0x17 2 0x9291 = (lead 1 0x12, 0x201, 1) := by decide +kernel
theorem test_qrDec_fails : dataRun 0x17 2 0xF391 = (0, 0x2, 1) := by decide +kernel
theorem test_golEnc : dataRun 0x18 1 0x19 = (lead 3 0x1964A0, 0, 1) := by decide +kernel
theorem test_golDec : dataRun 0x19 3 0x9598C0 = (lead 1 0x11, 0x301, 1) := by decide +kernel
theorem test_golDec_fails : dataRun 0x19 3 0x19FAD0 = (0, 0x2, 1) := by decide +kernel

/-- The BPTC codeword of section 2.3.1, third row. -/
def bptcWord : Nat := 0x028F083403680F981A203F20FD8174813A004405401BB00AE0

theorem test_bptcEnc : dataRun 0x20 12 0x000000000912D687F3B7F0 = (lead 25 bptcWord, 0, 1) := by decide +kernel

/-- X bit 195 flipped. -/
theorem test_bptcDec : dataRun 0x21 25 (bptcWord ^^^ 0x10) = (lead 12 0x000000000912D687F3B7F0, 0x101, 1) := by
  decide +kernel

/-- X bits 11 and 120 flipped. -/
theorem test_bptcDec_fails : dataRun 0x21 25 (bptcWord ^^^ (1 <<< 188) ^^^ (1 <<< 79)) = (0, 0x2, 1) := by
  decide +kernel

theorem test_embEnc : dataRun 0x22 9 0x000000000912D687 = (lead 16 0x03000F00050C0006030F090506060605, 0, 1) := by
  decide +kernel

/-- Y bit 7 flipped, in row 7. -/
theorem test_embDec :
    dataRun 0x23 16 (0x03000F00050C0006030F090506060605 ^^^ (1 <<< 120)) = (lead 9 0x000000000912D687, 0x101, 1) := by
  decide +kernel

/-- Y bits 7 and 15 flipped, row 7 twice. -/
theorem test_embDec_fails :
    dataRun 0x23 16 (0x03000F00050C0006030F090506060605 ^^^ (1 <<< 120) ^^^ (1 <<< 112)) = (0, 0x2, 1) := by
  decide +kernel

theorem test_callStart :
    let t := cmd 0x30 ready
    loadBuf 72 .lcAct t = 0x000000000912D687 ∧ loadBuf 128 .embTx t = 0x03000F00050C0006030F090506060605 ∧
      txStateWord t.tx = 0x100 := by
  decide +kernel

/-- Section 2.5.5: CTX_SRC = 0. -/
theorem test_callStart_badContext :
    statusWord (cmd 0x30 { State.reset with ctx := { k1 with src := 0 } }).status = 0x33 := by decide +kernel

theorem test_txHdr : loadBuf 264 .burstOut (cmd 0x31 calling) = burstH := by decide +kernel
theorem test_txHdr_noCall : statusWord (cmd 0x31 State.reset).status = 0x23 := by decide +kernel
theorem test_txVoice_A : loadBuf 264 .burstOut (cmd 0x32 calling) = burstA := by decide +kernel

theorem test_txVoice_E :
    let t := cmd 0x32 { calling with tx := { pos := 4, active := true } }
    loadBuf 264 .burstOut t = burstE ∧ txStateWord t.tx = 0x105 := by decide +kernel

theorem test_txTerm :
    let t := cmd 0x33 calling
    loadBuf 264 .burstOut t = burstT ∧ txStateWord t.tx = 0 := by decide +kernel

/-- Section 2.5.4: TX_DATA 1 of the BPTC codeword is H. -/
theorem test_txData :
    loadBuf 264 .burstOut (cmd 0x134 { given 25 bptcWord with ctx := { Context.reset with cc := 1 } }) = burstH := by
  decide +kernel

theorem test_txData_illegal : statusWord (cmd 0xC34 State.reset).status = 0x13 := by decide +kernel

theorem test_rxBurst_E :
    let t := cmd 0x40 (got burstE beforeE)
    resultWord t.result = 0x3C ∧ rxStateWord t.rx = 0x000141F4 ∧ loadBuf 72 .rxLc t = 0x000000000912D687 := by
  decide +kernel

/-- Section 1.7: T with four flips in its slot type. -/
theorem test_rxBurst_drop :
    let t := cmd 0x40 (got (burstT ^^^ (7#264 <<< 163 ||| 1#264 <<< 107)) State.reset)
    resultWord t.result = 0x42 ∧ rxStateWord t.rx = 0x00100007 ∧ t.fecFailCnt = 1 ∧ t.status.lcEv = false := by
  decide +kernel

/-- Section 2.1: RXSTATE 0x00016132 before. -/
theorem test_rxReset :
    let t := cmd 0x41 (storeBuf .rxFrag 0x03000F00050C00060000000000000000#128 { State.reset with
      rx := { pos := 2, abort := false, fragMask := 3, cc := 1, pi := false, lcss := 3, dt := 1, syncId := 0 } })
    rxStateWord t.rx = 0x00016107 ∧ loadBuf 128 .rxFrag t = 0 := by decide +kernel

theorem test_lcBuild :
    loadBuf 256 .dataOut (cmd 0x50 { State.reset with
      ctx := { k1 with cc := 5, priv := true, dst := 0x2F4D61 } }) = lead 9 0x0300002F4D6112D687 := by decide +kernel

theorem test_rsEnc : dataRun 0x151 9 0x000000000912D687 = (lead 12 0x000000000912D687F3B7F0, 0, 1) := by decide +kernel
theorem test_rsChk : dataRun 0x152 12 0x000000000912D687F3B7F0 = (lead 9 0x000000000912D687, 0, 1) := by decide +kernel
theorem test_rsChk_mask : dataRun 0x252 12 0x000000000912D687F3B7F0 = (0, 0x2, 1) := by decide +kernel
theorem test_cs5 : dataRun 0x53 9 0x0300002F4D6112D687 = (lead 1 0x02, 0, 1) := by decide +kernel

/-! ## Witnesses: for every statement with hypotheses, states and operands that meet them -/

theorem witness_DecodeAndEncodeAgree :
    (Instr.txData 11).wellFormed = true ∧ (Instr.rsChk 0).wellFormed = true ∧ Instr.nop.wellFormed = true ∧
      commandOf 0xB34 = some (.txData 11) := by decide

/-- One word of each kind of illegality at the ends of its range, and the last legal one. -/
theorem witness_IllegalWordsRaiseIllegalCmd :
    (∀ v ∈ [0xB34, 0x252, 0x53], LegalWord (BitVec.ofNat 32 v)) ∧
      ∀ v ∈ [0x1000, 0x80000000, 0xC34, 0x351, 0x100, 0x54, 0x03], ¬ LegalWord (BitVec.ofNat 32 v) := by
  exact ⟨by decide +kernel, by decide +kernel⟩

theorem witness_OpcodeMapDecodes :
    (0 ≤ 11 ∧ 11 ≤ 11) ∧ 2 ≤ 2 ∧
      ∀ op ∈ [0x03, 0x0F, 0x1A, 0x1F, 0x24, 0x2F, 0x35, 0x3F, 0x42, 0x4F, 0x54, 0xFF], ReservedOp op ∧ op ≤ 0xFF := by
  decide

/-- The reset state with one host event waiting. -/
def facing (e : HostEvent) : State := { State.reset with inputs := [e] }

theorem witness_StepRunsTheDecodedCommand :
    (facing (.txn (.write 0x00C 4 0xB34))).inputs = .txn (.write 0x00C 4 0xB34) :: [] ∧
      (facing (.txn (.write 0x00C 4 0xB34))).rst = false ∧ decode 0xB34 = .ok (.txData 11) := ⟨rfl, rfl, rfl⟩

theorem witness_StepHandlesResetInputAndIdle :
    State.reset.inputs = [] ∧ (facing (.rst true)).inputs = .rst true :: [] ∧
      (facing (.rst false)).inputs = .rst false :: [] ∧
      ({ facing (.txn (.read 0 4)) with rst := true } : State).rst = true := by decide

theorem witness_RegisterReads :
    (Reg.id, (0x000 : Offset), (0x01444D52 : Word)) ∈ registerTable State.reset ∧
      (Reg.actOpt, (0x040 : Offset), (0 : Word)) ∈ registerTable State.reset ∧
      ∀ p ∈ [((0x000 : Offset), 1), (0x043, 4), (0x001, 4), (0x040, 2), (0x020, 0)],
      p.1.toNat ≤ 0x043 ∧ ¬ (p.2 = 4 ∧ p.1.toNat % 4 = 0) := by decide

/-- Each kind of a transaction that is not admitted, at the ends of its ranges. -/
theorem witness_BusErrors :
    (∀ a ∈ [0x044, 0x0FF, 0x161, 0x17F, 0x1A1, 0x1BF, 0x1DB, 0x1DF, 0x1FB, 0x1FF, 0x209, 0x20F, 0x219, 0x21F, 0x240,
        0xFFF], NotAdmitted a 1) ∧
      (∀ p ∈ [(0x100, 4), (0x041, 4), (0x000, 1), (0x043, 1), (0x100, 2), (0x100, 0)], NotAdmitted p.1 p.2) ∧
      (∀ p ∈ [(0x040, 4), (0x23F, 1)], ¬ NotAdmitted p.1 p.2) ∧
      (∀ a ∈ [0x000, 0x020, 0x040], BitVec.ofNat 12 a ∈ readOnlyRegs) ∧
      ∀ a ∈ [0x120, 0x13F, 0x180, 0x1A0, 0x1E0, 0x1FA, 0x200, 0x208, 0x210, 0x218, 0x220, 0x23F], ReadOnlyByte a := by
  refine ⟨?_, ?_, ?_, ?_, ?_⟩ <;> decide +kernel

theorem witness_BufferBytesReadAndWritten :
    ((Buf.dataIn, 0x100, 32) ∈ bufferTable ∧ (Buf.rxFrag, 0x230, 16) ∈ bufferTable ∧ 0 < 16 ∧ 15 < 16) ∧
      (∀ a ∈ [0x100, 0x11F, 0x140, 0x160, 0x1C0, 0x1DA], WritableByte a ∧ ¬ ReadOnlyByte a) ∧
      ∀ a ∈ [0x120, 0x13F, 0x180, 0x1A0, 0x1E0, 0x1FA, 0x200, 0x208, 0x210, 0x218, 0x220, 0x23F],
        ReadOnlyByte a ∧ ¬ WritableByte a := by decide

/-- An active call at A whose shadow context has lost its destination. -/
def badCall : State := { State.reset with tx := { pos := 0, active := true } }

theorem witness_CommandErrorsAreExactlyThese :
    ¬ LegalWord 0x03 ∧ decode 0x32 = .ok .txVoice ∧ raisedBy .txVoice State.reset = some 2 ∧
      raisedBy .txVoice badCall = some 3 ∧ raisedBy .callStart State.reset = some 3 ∧
      raisedBy .txVoice { badCall with tx := { pos := 1, active := true } } = none ∧
      raisedBy .txHdr badCall = none ∧ raisedBy .rxBurst State.reset = none := by
  exact ⟨by decide, rfl, by decide⟩

/-- All three STATUS bits set, and a NOP written: nothing clears them. -/
theorem witness_StatusBitsStayUntilCleared :
    let e : HostEvent := .txn (.write 0x00C 4 0)
    let s : State := { facing e with status := { done := true, err := true, lcEv := true, errCode := 4 } }
    s.inputs = e :: [] ∧ step s = .next (after (step s)) ∧ s.status.done = true ∧ s.status.err = true ∧
      s.status.lcEv = true ∧ ∀ k, k < 3 → ¬ ClearsStatusBit e k := by
  refine ⟨rfl, next_of_runs _ (by decide +kernel), rfl, rfl, rfl, fun k _ => ?_⟩
  simp [ClearsStatusBit]

theorem witness_SoftResetIsResetAndDone : calling.rst = false := rfl

theorem witness_H15EncWritesTheCodeword : (0 : BitVec 11) ≠ 0x7FF ∧ (0 : BitVec 11) ≠ 1 := by decide

theorem witness_H13EncWritesTheCodeword : (0 : BitVec 9) ≠ 0x1FF ∧ (0 : BitVec 9) ≠ 1 := by decide

theorem witness_H16EncWritesTheCodeword : (0 : BitVec 11) ≠ 0x7FF ∧ (0 : BitVec 11) ≠ 1 := by decide

/-- No flip, and a flip of the first and of the last bit. -/
theorem witness_H15DecCorrectsOneError :
    bits (loadBuf 256 .dataIn (given 2 0xB4BA)) 0 15 = h15Encode 0x5A5 ∧
      bits (loadBuf 256 .dataIn (given 2 0x34BA)) 0 15 = flipBit (h15Encode 0x5A5) 0 ∧
      bits (loadBuf 256 .dataIn (given 2 0xB4B8)) 0 15 = flipBit (h15Encode 0x5A5) 14 := by decide +kernel

/-- No flip, a flip of the first and of the last bit, and bits 9 and 12 flipped. -/
theorem witness_H13DecCorrectsOneErrorElseFails :
    bits (loadBuf 256 .dataIn (given 2 0x55D0)) 0 13 = h13Encode 0x0AB ∧
      bits (loadBuf 256 .dataIn (given 2 0xD5D0)) 0 13 = flipBit (h13Encode 0x0AB) 0 ∧
      bits (loadBuf 256 .dataIn (given 2 0x55D8)) 0 13 = flipBit (h13Encode 0x0AB) 12 ∧
      bits (loadBuf 256 .dataIn (given 2 0x5598)) 0 13 = 0x0AB3 ∧
      (List.range 512).all (fun d => decide (2 ≤ dist 0x0AB3#13 (h13Encode (BitVec.ofNat 9 d)))) = true := by
  decide +kernel

/-- No flip, one flip, and two flips: bits 0 and 15, bits 0 and 1. -/
theorem witness_H16DecCorrectsOneDetectsTwo :
    bits (loadBuf 256 .dataIn (given 2 0xB4BB)) 0 16 = h16Encode 0x5A5 ∧
      bits (loadBuf 256 .dataIn (given 2 0x34BB)) 0 16 = flipBit (h16Encode 0x5A5) 0 ∧
      bits (loadBuf 256 .dataIn (given 2 0xB4BA)) 0 16 = flipBit (h16Encode 0x5A5) 15 ∧
      bits (loadBuf 256 .dataIn (given 2 0x34BA)) 0 16 = flipBit (flipBit (h16Encode 0x5A5) 0) 15 ∧
      bits (loadBuf 256 .dataIn (given 2 0x74BB)) 0 16 = flipBit (flipBit (h16Encode 0x5A5) 0) 1 := by decide +kernel

theorem witness_QrEncWritesTheCodeword : (0 : BitVec 7) ≠ 0x7F ∧ (0 : BitVec 7) ≠ 1 := by decide

theorem witness_GolEncWritesTheCodeword : (0 : BitVec 8) ≠ 0xFF ∧ (0 : BitVec 8) ≠ 1 := by decide

/-- Distances 0 and 2 from a codeword, more than 2 from all, and 3 from one. -/
theorem witness_QrDecDecodesWithinTwo :
    dist (bits (loadBuf 256 .dataIn (given 2 0x1391)) 0 16) (qrEncode 0x09) = 0 ∧
      dist (bits (loadBuf 256 .dataIn (given 2 0x9291)) 0 16) (qrEncode 0x09) = 2 ∧
      bits (loadBuf 256 .dataIn (given 2 0x9290)) 0 16 = 0x9290 ∧ dist 0x9290 (qrEncode 0x09) = 3 ∧
      (List.range 128).all (fun v => decide (2 < dist 0x9290#16 (qrEncode (BitVec.ofNat 7 v)))) = true := by
  decide +kernel

/-- Distances 0 and 3 from a codeword, more than 3 from all, and 4 from one. -/
theorem witness_GolDecDecodesWithinThree :
    dist (bits (loadBuf 256 .dataIn (given 3 0x11B8C0)) 0 20) (golayEncode 0x11) = 0 ∧
      dist (bits (loadBuf 256 .dataIn (given 3 0x9598C0)) 0 20) (golayEncode 0x11) = 3 ∧
      bits (loadBuf 256 .dataIn (given 3 0x19FAD0)) 0 20 = 0x19FAD ∧ dist 0x19FAD (golayEncode 0x11) = 4 ∧
      (List.range 256).all (fun v => decide (3 < dist 0x19FAD#20 (golayEncode (BitVec.ofNat 8 v)))) = true := by
  decide +kernel

/-- A word that does not fail, so that the second clause speaks of it. -/
theorem witness_BptcDecDependsOnTheErrorAlone : (bptcDecode (flipBit 0 195)).2 ≠ .fail := by decide +kernel

/-- The zero codeword, and a flip of X bits 0, 1 and 195. -/
theorem witness_BptcDecCorrectsEverySingleError :
    bits (loadBuf 256 .dataIn State.reset) 0 196 = bptcEncode 0 ∧
      bits (loadBuf 256 .dataIn (given 1 0x80)) 0 196 = flipBit (bptcEncode 0) 0 ∧
      bits (loadBuf 256 .dataIn (given 1 0x40)) 0 196 = flipBit (bptcEncode 0) 1 ∧
      bits (loadBuf 256 .dataIn (given 25 0x10)) 0 196 = flipBit (bptcEncode 0) 195 := by decide +kernel

/-- The zero codeword, and a flip of Y bits 0 and 127. -/
theorem witness_EmbDecCorrectsEverySingleError :
    bits (loadBuf 256 .dataIn State.reset) 0 128 = embEncode 0 ∧
      bits (loadBuf 256 .dataIn (given 1 0x80)) 0 128 = flipBit (embEncode 0) 0 ∧
      bits (loadBuf 256 .dataIn (given 16 0x01)) 0 128 = flipBit (embEncode 0) 127 := by decide +kernel

theorem witness_EmbDecIsSound :
    embDecode 0 = (0, .ok) ∧ embDecode (flipBit 0 127) = (0, .corrected 1) ∧
      embDecode (flipBit (flipBit 0 0) 1) = (0, .corrected 2) := by decide +kernel

theorem witness_LcBuildWritesTheRecord : ValidContext ready.ctx := by decide

theorem witness_GfMultiplication : 0 < 1 ∧ 1 < 255 ∧ 0 < 254 ∧ 254 < 255 := by decide

theorem witness_RsEncParityVanishes :
    2 < (3 : BitVec 4).toNat ∧ 2 < (15 : BitVec 4).toNat ∧ (0 : BitVec 4).toNat ≤ 2 ∧ (2 : BitVec 4).toNat ≤ 2 ∧
      1 ≤ 1 ∧ 3 ≤ 3 := by decide

/-- A Full LC under mask 1, the same bytes under mask 2, and the ends of the byte index. -/
theorem witness_RsChkAcceptsExactlyTheFullLc :
    2 < (3 : BitVec 4).toNat ∧
      (bits (loadBuf 256 .dataIn (given 12 0x000000000912D687F3B7F0)) 0 96 = fullLc 0x000000000912D687 1) ∧
      (0x000000000912D687F3B7F0#96 ≠ fullLc (bits 0x000000000912D687F3B7F0#96 0 72) 2) ∧
      0 < 12 ∧ 11 < 12 ∧ (1 : BitVec 8) ≠ 0 ∧ 0 ≤ 2 ∧ 2 ≤ 2 ∧ 0 ≠ 2 := by decide +kernel

theorem witness_CallStartLatchesAndActivates : ValidContext ready.ctx := by decide

theorem witness_HeaderAndTerminatorBursts : calling.tx.active = true := rfl

/-- Positions A, B, E and F of an active call. -/
theorem witness_VoiceBurstByPosition :
    ∀ p ∈ [0, 1, 4, 5], ({ calling with tx := { pos := BitVec.ofNat 3 p, active := true } } : State).tx.pos.toNat = p ∧
      p ≤ 5 ∧ (p = 0 → ValidContext calling.ctx) := by decide

theorem witness_TxDataBurst :
    (0 : BitVec 4).toNat ≤ 11 ∧ (11 : BitVec 4).toNat ≤ 11 ∧ 11 < (12 : BitVec 4).toNat ∧ 11 < (15 : BitVec 4).toNat := by
  decide

/-- The active call at position B. -/
def atB : State := { calling with tx := { pos := 1, active := true } }

theorem witness_OnlyALatchChangesTheActiveContext :
    exec .txVoice atB = .next (after (exec .txVoice atB)) ∧ Instr.txVoice ≠ .softReset ∧ Instr.txVoice ≠ .callStart ∧
      ¬ (Instr.txVoice = .txVoice ∧ atB.tx.pos = 0) :=
  ⟨next_of_runs _ (by decide +kernel), by decide, by decide, by decide⟩

/-- An active call with records and a waiting write to BURST_IN. -/
def busy : State := { calling with inputs := [.txn (.write 0x140 1 0xFF)] }

theorem witness_StepKeepsMemoryCanonical : memWf busy.mem = true ∧ step busy = .next (after (step busy)) :=
  ⟨by decide +kernel, next_of_runs _ (by decide +kernel)⟩

theorem witness_StepKeepsRegistersLegal :
    (LegalFields busy ∧ LegalCall busy) ∧ step busy = .next (after (step busy)) :=
  ⟨by decide +kernel, next_of_runs _ (by decide +kernel)⟩

theorem witness_StepKeepsTheLatchedRecords : LatchFits busy ∧ step busy = .next (after (step busy)) :=
  ⟨by decide +kernel, next_of_runs _ (by decide +kernel)⟩

/-- Three fragments held before E, and the burst at E waiting to be received. -/
theorem witness_StepKeepsTheFragmentStore :
    let s : State := { got burstE beforeE with inputs := [.txn (.write 0x00C 4 0x40)] }
    FragmentsFit s ∧ step s = .next (after (step s)) :=
  ⟨by unfold FragmentsFit; decide +kernel, next_of_runs _ (by decide +kernel)⟩

/-- Four flips in the first and in the last pattern. -/
theorem witness_SyncMatchIsUnambiguous :
    syncDistance (burstA ^^^ 0xF <<< 110) 0 = 4 ∧
      syncDistance (voiceBurst 0 (0xD7557F5FF7F5 ^^^ 0x800000000007)) 7 = 4 := by decide +kernel

/-- The receiver with a tolerance of 4. -/
def tolerant : State := { State.reset with ctrl := { State.reset.ctrl with syncTol := 4 } }

/-- The voice sync at A, exact, and with four flips under a tolerance of 4. -/
theorem witness_RxVoiceSyncStartsASuperframe :
    SyncsTo (got burstA State.reset) 0 ∧ SyncsTo (got (burstA ^^^ 0xF <<< 110) tolerant) 0 ∧ 0 % 2 = 0 := by
  decide +kernel

/-- An idle data burst (section 2.5.4) whose slot type has no flip, and three. -/
theorem witness_RxRawDataHandedOver :
    let b : BitVec 264 := 0x065DFF57D75DF5D928 <<< 96
    let s := got b State.reset
    let u := got (b ^^^ (3#264 <<< 164) ^^^ (1#264 <<< 107)) State.reset
    SyncsTo s 1 ∧ dist (slotTypeOf (received s)) (golayEncode (1#4 ++ 9#4)) = 0 ∧
      SyncsTo u 1 ∧ dist (slotTypeOf (received u)) (golayEncode (1#4 ++ 9#4)) = 3 ∧
      (9 : BitVec 4) ≠ 1 ∧ (9 : BitVec 4) ≠ 2 := by decide +kernel

/-- Section 1.7: T with four flips in its slot type. -/
theorem witness_RxUndecodableSlotTypeIsDropped :
    let s := got (burstT ^^^ (7#264 <<< 163 ||| 1#264 <<< 107)) State.reset
    SyncsTo s 1 ∧
      (List.range 256).all (fun v => decide (3 < dist (slotTypeOf (received s)) (golayEncode (BitVec.ofNat 8 v)))) =
        true := by decide +kernel

/-- H: its slot type and its LC. -/
theorem witness_RxFullLcSurfacesOnlyChecked_surfaced :
    let s := got burstH State.reset
    SyncsTo s 1 ∧ dist (slotTypeOf (received s)) (golayEncode (1#4 ++ 1#4)) = 0 ∧
      bptcDecode (infoOf (received s)) = (fullLc 0x000000000912D687 1, outcomeOfChanges 0) := by decide +kernel

/-- H's information bits in a burst with T's slot type: the parity is that of the other mask. -/
theorem witness_RxFullLcSurfacesOnlyChecked_unchecked :
    let s := got (dataBurst (infoOf burstH) 1 2 (syncPattern 1)) State.reset
    SyncsTo s 1 ∧ dist (slotTypeOf (received s)) (golayEncode (1#4 ++ 2#4)) = 0 ∧
      bptcDecode (infoOf (received s)) = (0x000000000912D687F3B7F0, outcomeOfChanges 0) ∧
      0x000000000912D687F3B7F0#96 ≠ fullLc 0x000000000912D687 2 := by decide +kernel

/-- A Full LC is its record followed by the record's parity, so no other record needs to be tried. -/
theorem fullLc_record (l : BitVec 72) (select : Nat) : (fullLc l select).extractLsb' 24 72 = l := by
  unfold fullLc
  rw [BitVec.extractLsb'_append_eq_of_le (by decide)]
  simp

/-- The hypothesis over all records for the burst before. -/
theorem witness_RxFullLcSurfacesOnlyChecked_no_record (l : BitVec 72) :
    0x000000000912D687F3B7F0#96 ≠ fullLc l (2#4).toNat := by
  intro h
  have hl : l = 0x000000000912D687#72 := by rw [← fullLc_record l (2#4).toNat, ← h]; decide
  rw [hl] at h
  exact absurd h (by decide +kernel)

/-- The zero codeword with X bits 11 and 120 flipped does not decode. -/
theorem witness_RxFullLcSurfacesOnlyChecked_undecodable :
    let s := got (dataBurst (flipBit (flipBit 0 11) 120) 1 1 (syncPattern 1)) State.reset
    SyncsTo s 1 ∧ dist (slotTypeOf (received s)) (golayEncode (1#4 ++ 1#4)) = 0 ∧
      (bptcDecode (infoOf (received s))).2 = .fail := by decide +kernel

/-- A with bits 108, 120 and 140 flipped and SYNC_TOL 0, as a first burst and after A. -/
theorem witness_RxUndecodableEmbIsDropped :
    let s := got (burstA ^^^ (1#264 <<< 155 ||| 1#264 <<< 143 ||| 1#264 <<< 123)) State.reset
    let u : State := { s with rx := { s.rx with pos := 0 } }
    NoSync s ∧ NoSync u ∧
      (List.range 128).all (fun v => decide (2 < dist (embOf (received s)) (qrEncode (BitVec.ofNat 7 v)))) = true ∧
      nextPosition s = 7 ∧ nextPosition u = 1 := by decide +kernel

/-- B after A: the fragment is stored. The same burst at C, at E and when unsynchronised: abandoned, abandoned, ignored. -/
theorem witness_RxEmbeddedTracksThePosition :
    let s : State := { got burstB State.reset with rx := { State.reset.rx with pos := 0 } }
    NoSync s ∧ dist (embOf (received s)) (qrEncode (1#4 ++ 0#1 ++ 1#2)) = 0 ∧ nextPosition s = 1 ∧
      expectedLcss 1 = 1 ∧ expectedLcss 2 ≠ 1 ∧ expectedLcss 4 ≠ 1 ∧
      nextPosition { s with rx := { s.rx with pos := 1 } } = 2 ∧
      nextPosition { s with rx := { s.rx with pos := 3 } } = 4 ∧
      nextPosition { s with rx := { s.rx with pos := 4 } } = 5 ∧ nextPosition State.reset = 7 := by decide +kernel

/-- E after A to D: the fragments decode. -/
theorem witness_RxAssemblesTheLcAtE :
    let s := got burstE beforeE
    NoSync s ∧ dist (embOf (received s)) (qrEncode (1#4 ++ 0#1 ++ 2#2)) = 0 ∧ s.rx.pos = 3 ∧ s.rx.abort = false ∧
      s.rx.fragMask ||| 8 = 0xF ∧ embDecode (fragmentsWith s 4) = (0x000000000912D687, outcomeOfChanges 0) := by
  decide +kernel

/-- The same with two flips in row 0 of B's fragment: the fragments do not decode. -/
theorem witness_RxAssemblesTheLcAtE_undecodable :
    let s := storeBuf .rxFrag (0x03000F00050C0006030F090500000000#128 ^^^ (0x808#128 <<< 116)) (got burstE beforeE)
    NoSync s ∧ dist (embOf (received s)) (qrEncode (1#4 ++ 0#1 ++ 2#2)) = 0 ∧ s.rx.fragMask ||| 8 = 0xF ∧
      (embDecode (fragmentsWith s 4)).2 = .fail := by decide +kernel

/-- E after A to D sets RESULT.LC; B after A does not. -/
theorem witness_RxLcChangesOnlyWithResultLc :
    let s := got burstE beforeE
    let u : State := { got burstB State.reset with rx := { State.reset.rx with pos := 0 } }
    exec .rxBurst s = .next (after (exec .rxBurst s)) ∧ (after (exec .rxBurst s)).result.lc = true ∧
      exec .rxBurst u = .next (after (exec .rxBurst u)) ∧ (after (exec .rxBurst u)).result.lc = false ∧
      Instr.rxBurst ≠ .softReset :=
  ⟨next_of_runs _ (by decide +kernel), by decide +kernel, next_of_runs _ (by decide +kernel), by decide +kernel,
    by decide⟩

theorem witness_CountersCountDropsAndAborts :
    let s := got (burstT ^^^ (7#264 <<< 163 ||| 1#264 <<< 107)) State.reset
    exec .rxBurst s = .next (after (exec .rxBurst s)) ∧ (after (exec .rxBurst s)).result.rxClass = 4 ∧
      Instr.rxBurst ≠ .softReset ∧ Instr.rxBurst ≠ .clrCnt :=
  ⟨next_of_runs _ (by decide +kernel), by decide +kernel, by decide, by decide⟩

theorem runs_exec (i : Instr) (s : State) : runs (exec i s) = true := by
  obtain ⟨t, h⟩ := exec_next i s
  rw [h]
  rfl

theorem witness_HeaderRoundTrip :
    calling.tx.active = true ∧ exec .txHdr calling = .next (after (exec .txHdr calling)) ∧
      exec .txTerm calling = .next (after (exec .txTerm calling)) :=
  ⟨rfl, next_of_runs _ (runs_exec _ _), next_of_runs _ (runs_exec _ _)⟩

/-- The state with a burst built, before it is received. -/
def built (i : Instr) (s : State) : State := after (exec i (storeBuf .voiceIn 0#216 s))

/-- The state with the burst built and received. -/
def looped (i : Instr) (s : State) : State :=
  after (exec .rxBurst (storeBuf .burstIn (loadBuf 264 .burstOut (built i s)) (built i s)))

theorem loopedBack_looped (i : Instr) (s : State) :
    LoopedBack i 0#216 s (loadBuf 264 .burstOut (built i s)) (looped i s) :=
  ⟨built i s, next_of_runs _ (runs_exec _ _), rfl, next_of_runs _ (runs_exec _ _)⟩

/-- The states of a call with K1 from its header on. -/
def callStates : Nat → State
  | 0 => looped .txHdr (after (exec .callStart ready))
  | n + 1 => looped (superframeCommand n) (callStates n)

/-- A call with K1 and a header, under SYNC_TOL 0. -/
theorem witness_CallRoundTrip :
    ValidContext ready.ctx ∧ ready.rx.pos = 7 ∧ exec .callStart ready = .next (after (exec .callStart ready)) ∧
      (∃ header payload, LoopedBack .txHdr payload (after (exec .callStart ready)) header (callStates 0)) ∧
      (∀ n, LoopedBack (superframeCommand n) 0#216 (callStates n)
        (loadBuf 264 .burstOut (built (superframeCommand n) (callStates n))) (callStates (n + 1))) ∧
      ready.ctrl.syncTol.toNat ≤ 1 :=
  ⟨by decide, rfl, next_of_runs _ (runs_exec _ _), ⟨_, _, loopedBack_looped _ _⟩, fun _ => loopedBack_looped _ _,
    by decide⟩

/-- The bursts B to F of section 2.5.1 lie outside the largest tolerance of every sync pattern. -/
theorem witness_CallRoundTrip_tolerant :
    ∀ center ∈ [0x1303000F0091, 0x17050C000674, 0x17030F090574, 0x150606060507, 0x1100000000E2], ∀ k, k < 8 →
      4 < syncDistance (voiceBurst 0 (BitVec.ofNat 48 center)) k := by decide +kernel

/-- Log 11: the burst at C of a call with CC 7, DST 0x240F03, SRC 0x40F000, FID 1 and SO 0xE0 lies within 4 of the
pattern MS_VOICE. -/
theorem test_log11_burst_near_a_sync :
    syncDistance (voiceBurst 0 (embCenter (embField 7 false 3) (fragmentOf (embEncode 0x0001E0240F0340F000) 2))) 2 = 4 := by
  decide +kernel

end Sys2Proof.Tests
end

section
/-! PROOFS. The interrupt output and the reset values (10_state.md R66, R68). -/

namespace Sys2Proof.Machine

/-! ## The event bits of STATUS and their enables in CTRL -/

theorem statusWord_event_bits (s : Status) :
    (statusWord s).getLsbD 0 = s.done ∧ (statusWord s).getLsbD 1 = s.err ∧ (statusWord s).getLsbD 2 = s.lcEv := by
  simp only [statusWord, BitVec.getLsbD_append]
  simp

theorem ctrlWord_enable_bits (c : Ctrl) :
    (ctrlWord c).getLsbD 8 = c.ieDone ∧ (ctrlWord c).getLsbD 9 = c.ieErr ∧ (ctrlWord c).getLsbD 10 = c.ieLc := by
  simp only [ctrlWord, BitVec.getLsbD_append]
  simp

/-! ## The interrupt output -/

theorem getLsbD_and_seven (w : Word) (i : Nat) : (w &&& 0x7).getLsbD i = (w.getLsbD i && decide (i < 3)) := by
  have hmask : (0x7 : Word).getLsbD i = decide (i < 3) := Nat.testBit_two_pow_sub_one 3 i
  rw [BitVec.getLsbD_and, hmask]

theorem and_seven_eq_zero_iff (w : Word) :
    w &&& 0x7 = 0 ↔ w.getLsbD 0 = false ∧ w.getLsbD 1 = false ∧ w.getLsbD 2 = false := by
  constructor
  · intro hz
    have hlow (i : Nat) (hi : i < 3) : w.getLsbD i = false := by
      have hbit := getLsbD_and_seven w i
      simp_all
    exact ⟨hlow 0 (by decide), hlow 1 (by decide), hlow 2 (by decide)⟩
  · rintro ⟨h0, h1, h2⟩
    refine BitVec.eq_of_getLsbD_eq fun i _ => ?_
    rw [getLsbD_and_seven]
    match i with
    | 0 | 1 | 2 => simp_all
    | i + 3 => simp

theorem irq_iff (s : State) : irq s = true ↔
    (s.status.done = true ∧ s.ctrl.ieDone = true) ∨ (s.status.err = true ∧ s.ctrl.ieErr = true) ∨
      (s.status.lcEv = true ∧ s.ctrl.ieLc = true) := by
  simp [irq, or_assoc]

/-- Bit k of STATUS meets its enable, bit k + 8 of CTRL, for k = 0, 1, 2. -/
theorem irq_iff_words (s : State) :
    irq s = true ↔ (statusWord s.status &&& (ctrlWord s.ctrl >>> 8)) &&& 0x7 ≠ 0 := by
  obtain ⟨hdone, herr, hlcEv⟩ := statusWord_event_bits s.status
  obtain ⟨hieDone, hieErr, hieLc⟩ := ctrlWord_enable_bits s.ctrl
  rw [irq_iff, Ne, and_seven_eq_zero_iff]
  simp only [not_and_or, Bool.not_eq_false, BitVec.getLsbD_and, BitVec.getLsbD_ushiftRight, Nat.reduceAdd,
    Bool.and_eq_true, hdone, herr, hlcEv, hieDone, hieErr, hieLc]

/-! ## The reset state -/

theorem memRead_reset (a : Nat) : memRead State.reset.mem a = 0x00 := rfl

theorem irq_reset : irq State.reset = false := rfl

end Sys2Proof.Machine

namespace Sys2Proof.Claims

open Sys2Proof.Machine

/-- Settles O14: both sides are true for the same three pairs of an event and its enable. -/
theorem irqIsEnabledStatus : Obligations.IrqIsEnabledStatus := fun s =>
  Bool.eq_iff_iff.mpr ((irq_iff_words s).trans decide_eq_true_iff.symm)

theorem not_validContext_reset : ¬ ValidContext State.reset.ctx := fun ⟨hdst, _⟩ => hdst rfl

/-- Settles O15: each register's word is the one of its record in `State.reset`, and the memory lists no byte. -/
theorem resetValues : Obligations.ResetValues :=
  ⟨rfl, rfl, rfl, rfl, rfl, rfl, rfl, rfl, rfl, rfl, rfl, rfl, rfl, rfl, rfl, rfl,
    memRead_reset, irq_reset, not_validContext_reset⟩

end Sys2Proof.Claims
end

section
/-! PROOFS. The host's bus transactions (20_memory.md R102, R103, R110 to R114): the address map, what a transaction
does for the register or the buffer at its offset, and what one that is not admitted does. -/

namespace Sys2Proof.Machine

/-! ## The address map -/

/-- The register offsets are the multiples of 4 up to 0x040 (20_memory.md R102). -/
theorem regOffset_bounds (r : Reg) : (regOffset r).toNat ≤ 0x040 ∧ (regOffset r).toNat % 4 = 0 := by
  cases r <;> decide

@[simp] theorem regAt_regOffset (r : Reg) : regAt (regOffset r) = some r := by
  cases r <;> decide

theorem regOffset_of_regAt {a : Offset} {r : Reg} (h : regAt a = some r) : regOffset r = a := by
  simpa using List.find?_some h

theorem regAt_eq_none {a : Offset} (h : ¬ (a.toNat ≤ 0x040 ∧ a.toNat % 4 = 0)) : regAt a = none := by
  cases hr : regAt a with
  | none => rfl
  | some r => exact absurd (regOffset_of_regAt hr ▸ regOffset_bounds r) h

theorem bufAt_eq_none {a : Nat} (h : ∀ b, inBuf b a ≠ true) : bufAt a = none := by
  cases hb : bufAt a with
  | none => rfl
  | some b => exact absurd ((bufAt_eq_some a b).mp hb) (h b)

theorem bufAt_of_range (b : Buf) {a first last : Nat} (h : first ≤ a ∧ a ≤ last) (hfirst : bufStart b = first)
    (hlast : bufStart b + bufLen b = last + 1) : bufAt a = some b :=
  bufAt_of_inBuf b a ((inBuf_iff b a).mpr (by omega))

/-! ## Admitted transactions -/

@[simp] theorem transact_read_reg (r : Reg) (s : State) :
    transact (.read (regOffset r) 4) s = .next (respond (readReg s r) s) := by
  simp [transact, busRead]

@[simp] theorem transact_write_reg (r : Reg) (v : Word) (s : State) :
    transact (.write (regOffset r) 4 v) s = writeReg r v s := by
  simp [transact, busWrite]

theorem transact_read_buf {a : Offset} {b : Buf} (h : bufAt a.toNat = some b) (s : State) :
    transact (.read a 1) s = .next (respond ((memRead s.mem a.toNat).setWidth 32) s) := by
  simp [transact, busRead, h]

theorem transact_write_buf {a : Offset} {b : Buf} (h : bufAt a.toNat = some b) (v : Word) (s : State) :
    transact (.write a 1 v) s = .next
      (if bufWritable b then { s with mem := memWrite s.mem a.toNat (v.setWidth 8) } else busError s) := by
  cases hb : bufWritable b <;> simp [transact, busWrite, h, hb]

/-! ## Transactions that reach no register and no buffer -/

/-- No register takes a word at the offset and no buffer a byte, whichever of the two the width asks for. -/
def NoTarget (a : Offset) (width : Nat) : Prop :=
  (width = 4 → regAt a = none) ∧ (width = 1 → bufAt a.toNat = none)

theorem transact_read_noTarget {a : Offset} {width : Nat} (h : NoTarget a width) (s : State) :
    transact (.read a width) s = .next (respond 0 (busError s)) := by
  obtain ⟨hreg, hbuf⟩ := h
  by_cases h4 : width = 4
  · simp [transact, busRead, h4, hreg h4]
  · by_cases h1 : width = 1
    · simp [transact, busRead, h1, hbuf h1]
    · simp [transact, busRead, h4, h1]

theorem transact_write_noTarget {a : Offset} {width : Nat} (h : NoTarget a width) (v : Word) (s : State) :
    transact (.write a width v) s = .next (busError s) := by
  obtain ⟨hreg, hbuf⟩ := h
  by_cases h4 : width = 4
  · simp [transact, busWrite, h4, hreg h4]
  · by_cases h1 : width = 1
    · simp [transact, busWrite, h1, hbuf h1]
    · simp [transact, busWrite, h4, h1]

/-! ## Every transaction completes -/

theorem executeWord_next (v : Word) (s : State) : ∃ t, executeWord v s = .next t := by
  unfold executeWord
  split
  · exact exec_next _ s
  · exact ⟨_, rfl⟩

/-- Only a write to CMD runs anything; every other register write answers at once. -/
theorem writeReg_next (r : Reg) (v : Word) (s : State) : ∃ t, writeReg r v s = .next t := by
  cases r
  case cmd => exact executeWord_next v s
  all_goals exact ⟨_, rfl⟩

theorem busWrite_next (a : Offset) (width : Nat) (v : Word) (s : State) : ∃ t, busWrite a width v s = .next t := by
  unfold busWrite
  split_ifs
  · split
    · exact writeReg_next _ v s
    · exact ⟨_, rfl⟩
  · split
    · split_ifs <;> exact ⟨_, rfl⟩
    · exact ⟨_, rfl⟩
  · exact ⟨_, rfl⟩

theorem transact_next (t : Txn) (s : State) : ∃ u, transact t s = .next u := by
  cases t with
  | read a width => exact ⟨_, rfl⟩
  | write a width v => exact busWrite_next a width v s

/-! ## Read-only registers -/

/-- The registers that raise Error(BUS) when written (20_memory.md R111). -/
def hostReadOnly : List Reg :=
  [.id, .result, .txState, .rxState, .fecFailCnt, .abortCnt, .actCfg, .actDst, .actSrc, .actOpt]

theorem writeReg_hostReadOnly {r : Reg} (h : r ∈ hostReadOnly) (v : Word) (s : State) :
    writeReg r v s = .next (busError s) := by
  revert r
  simp [hostReadOnly, writeReg]

/-! ## What a register write stores -/

/-- Writing 3 keeps SYNC_ORIGIN (10_state.md R53, WARL). -/
theorem syncOriginCode_writeSyncOrigin (old : SyncOrigin) (v : BitVec 2) :
    syncOriginCode (writeSyncOrigin old v) = if v = 3 then syncOriginCode old else v := by
  have hv : v = 0 ∨ v = 1 ∨ v = 2 ∨ v = 3 := by bv_omega
  rcases hv with rfl | rfl | rfl | rfl <;> rfl

theorem writeSyncTol_toNat (v : BitVec 3) : (writeSyncTol v).toNat = min v.toNat 4 := by
  unfold writeSyncTol
  split_ifs with h
  · omega
  · show 4 = min v.toNat 4
    omega

/-- Bit by bit: the mask keeps bits 3:0, 8 and 16, which are the three fields (10_state.md R57). -/
theorem cfgWord_writeCfg (c : Context) (v : Word) : cfgWord (writeCfg c v) = v &&& 0x0001010F := by
  refine BitVec.eq_of_getLsbD_eq fun i hi => ?_
  simp only [cfgWord, writeCfg, BitVec.getLsbD_append, BitVec.getLsbD_and]
  interval_cases i <;> simp

theorem zero_append_low24 (v : Word) : 0#8 ++ v.extractLsb' 0 24 = v &&& 0x00FFFFFF := by
  refine BitVec.eq_of_getLsbD_eq fun i _ => ?_
  have hmask : (0x00FFFFFF : Word).getLsbD i = decide (i < 24) := Nat.testBit_two_pow_sub_one 24 i
  rw [BitVec.getLsbD_and, hmask, BitVec.getLsbD_append]
  by_cases hi : i < 24 <;> simp [hi]

theorem dstWord_writeDst (c : Context) (v : Word) : dstWord (writeDst c v) = v &&& 0x00FFFFFF := zero_append_low24 v

theorem srcWord_writeSrc (c : Context) (v : Word) : srcWord (writeSrc c v) = v &&& 0x00FFFFFF := zero_append_low24 v

theorem optWord_writeOpt (c : Context) (v : Word) : optWord (writeOpt c v) = v &&& 0x0000FFFF := by
  refine BitVec.eq_of_getLsbD_eq fun i _ => ?_
  have hmask : (0x0000FFFF : Word).getLsbD i = decide (i < 16) := Nat.testBit_two_pow_sub_one 16 i
  simp only [optWord, writeOpt, BitVec.getLsbD_append, BitVec.getLsbD_and, hmask]
  by_cases hfid : i < 8
  · have hlow : i < 16 := by omega
    simp [hfid, hlow]
  · by_cases hso : i < 16
    · have hbyte : i - 8 < 8 := by omega
      have hbit : 8 + (i - 8) = i := by omega
      simp [hfid, hso, hbyte, hbit]
    · have hbyte : ¬ i - 8 < 8 := by omega
      simp [hfid, hso, hbyte]

end Sys2Proof.Machine

namespace Sys2Proof.Claims

open Sys2Proof.Machine

/-! ## The tables of the statements are those of the model -/

theorem registerTable_eq (s : State) : registerTable s = allRegs.map fun r => (r, regOffset r, readReg s r) := rfl

theorem bufferTable_eq : bufferTable = allBufs.map fun b => (b, bufStart b, bufLen b) := rfl

theorem busError_eq (s : State) : busError s = afterBusError s := by
  simp [busError, errorEntry, errCodeValue]

theorem readOnlyRegs_eq : readOnlyRegs = hostReadOnly.map regOffset := rfl

theorem bufAt_of_writableByte {a : Nat} (h : WritableByte a) : ∃ b, bufAt a = some b ∧ bufWritable b = true := by
  obtain h | h | h := h
  · exact ⟨.dataIn, bufAt_of_range .dataIn h rfl rfl, rfl⟩
  · exact ⟨.burstIn, bufAt_of_range .burstIn h rfl rfl, rfl⟩
  · exact ⟨.voiceIn, bufAt_of_range .voiceIn h rfl rfl, rfl⟩

/-- The last range of `ReadOnlyByte` holds EMB_TX and RX_FRAG, which stand next to each other. -/
theorem bufAt_of_readOnlyByte {a : Nat} (h : ReadOnlyByte a) : ∃ b, bufAt a = some b ∧ bufWritable b = false := by
  obtain h | h | h | h | h | ⟨hlow, hhigh⟩ := h
  · exact ⟨.dataOut, bufAt_of_range .dataOut h rfl rfl, rfl⟩
  · exact ⟨.burstOut, bufAt_of_range .burstOut h rfl rfl, rfl⟩
  · exact ⟨.voiceOut, bufAt_of_range .voiceOut h rfl rfl, rfl⟩
  · exact ⟨.lcAct, bufAt_of_range .lcAct h rfl rfl, rfl⟩
  · exact ⟨.rxLc, bufAt_of_range .rxLc h rfl rfl, rfl⟩
  · rcases Nat.lt_or_ge a 0x230 with hemb | hfrag
    · exact ⟨.embTx, bufAt_of_range .embTx ⟨hlow, Nat.le_of_lt_succ hemb⟩ rfl rfl, rfl⟩
    · exact ⟨.rxFrag, bufAt_of_range .rxFrag ⟨hfrag, hhigh⟩ rfl rfl, rfl⟩

/-- A buffer byte is mapped, and above the registers. -/
theorem mapped_of_inBuf {b : Buf} {a : Nat} (h : inBuf b a = true) : 0x043 < a ∧ ¬ Unmapped a := by
  rw [inBuf_iff] at h
  cases b <;> simp only [bufStart, bufLen] at h <;> omega

/-! ## Transactions that raise BUS -/

theorem noTarget_of_notAdmitted {a : Offset} {width : Nat} (h : NotAdmitted a.toNat width) : NoTarget a width := by
  constructor
  · rintro rfl
    exact regAt_eq_none (by omega)
  · rintro rfl
    refine bufAt_eq_none fun b hb => ?_
    obtain ⟨habove, hmapped⟩ := mapped_of_inBuf hb
    omega

theorem transact_read_notAdmitted {a : Offset} {width : Nat} (h : NotAdmitted a.toNat width) (s : State) :
    transact (.read a width) s = .next { afterBusError s with response := some 0 } := by
  rw [transact_read_noTarget (noTarget_of_notAdmitted h), busError_eq]
  rfl

theorem transact_write_notAdmitted {a : Offset} {width : Nat} (h : NotAdmitted a.toNat width) (v : Word) (s : State) :
    transact (.write a width v) s = .next (afterBusError s) := by
  rw [transact_write_noTarget (noTarget_of_notAdmitted h), busError_eq]

theorem transact_write_readOnlyReg {a : Offset} (h : a ∈ readOnlyRegs) (v : Word) (s : State) :
    transact (.write a 4 v) s = .next (afterBusError s) := by
  rw [readOnlyRegs_eq, List.mem_map] at h
  obtain ⟨r, hr, rfl⟩ := h
  rw [transact_write_reg, writeReg_hostReadOnly hr, busError_eq]

theorem transact_write_readOnlyByte {a : Offset} (h : ReadOnlyByte a.toNat) (v : Word) (s : State) :
    transact (.write a 1 v) s = .next (afterBusError s) := by
  obtain ⟨b, hb, hro⟩ := bufAt_of_readOnlyByte h
  rw [transact_write_buf hb, hro, if_neg Bool.false_ne_true, busError_eq]

/-- Settles O10: what is not admitted has no target, and a read-only target raises the same error. -/
theorem busErrors : Obligations.BusErrors := fun s _ _ v =>
  ⟨fun h => ⟨transact_read_notAdmitted h s, transact_write_notAdmitted h v s⟩,
    fun h => transact_write_readOnlyReg h v s, fun h => transact_write_readOnlyByte h v s, fun t => transact_next t s⟩

/-! ## Register reads -/

/-- In the register range only a word read at a multiple of 4 is admitted (20_memory.md R110). -/
theorem notAdmitted_of_registerRange {a width : Nat} (ha : a ≤ 0x043) (h : ¬ (width = 4 ∧ a % 4 = 0)) :
    NotAdmitted a width := by
  omega

/-- Settles O7: the statement's table is that of `regOffset` and `readReg`. -/
theorem registerReads : Obligations.RegisterReads := by
  refine ⟨fun s r a w h => ?_, fun s _ _ ha h => transact_read_notAdmitted (notAdmitted_of_registerRange ha h) s⟩
  rw [registerTable_eq, List.mem_map] at h
  obtain ⟨r', -, hrow⟩ := h
  cases hrow
  exact ⟨transact_read_reg r s, rfl, rfl⟩

/-! ## Register writes -/

theorem acknowledge_eq (v : Word) (s : State) : acknowledge v s = { s with status :=
    { done := if v.getLsbD 0 then false else s.status.done
      err := if v.getLsbD 1 then false else s.status.err
      lcEv := if v.getLsbD 2 then false else s.status.lcEv
      errCode := if v.getLsbD 1 then 0 else s.status.errCode } } := by
  have hclear (old bit : Bool) : (old && !bit) = if bit then false else old := by cases bit <;> simp
  simp only [acknowledge, hclear]

/-- Settles O9: each clause is the write rule of the register at its offset. -/
theorem registerWrites : Obligations.RegisterWrites := fun s v =>
  ⟨⟨writeCtrl s.ctrl v, transact_write_reg .ctrl v s, syncOriginCode_writeSyncOrigin _ _, writeSyncTol_toNat _,
      rfl, rfl, rfl⟩,
    (transact_write_reg .status v s).trans (congrArg _ (acknowledge_eq v s)),
    transact_write_reg .cmd v s,
    ⟨writeCfg s.ctx v, transact_write_reg .ctxCfg v s, cfgWord_writeCfg _ v, rfl, rfl, rfl⟩,
    ⟨writeDst s.ctx v, transact_write_reg .ctxDst v s, dstWord_writeDst _ v, rfl, rfl, rfl⟩,
    ⟨writeSrc s.ctx v, transact_write_reg .ctxSrc v s, srcWord_writeSrc _ v, rfl, rfl, rfl⟩,
    ⟨writeOpt s.ctx v, transact_write_reg .ctxOpt v s, optWord_writeOpt _ v, rfl, rfl, rfl⟩,
    fun _ h => transact_write_readOnlyReg h v s⟩

/-! ## Buffer bytes -/

theorem extractLsb'_setWidth_byte (x : Byte) : (x.setWidth 32).extractLsb' 0 8 = x := by
  rw [← BitVec.setWidth_eq_extractLsb' (by decide), BitVec.setWidth_setWidth_of_le x (by decide), BitVec.setWidth_eq]

theorem transact_read_byte {a : Offset} (h : WritableByte a.toNat ∨ ReadOnlyByte a.toNat) (s : State) :
    transact (.read a 1) s = .next { s with response := some ((memRead s.mem a.toNat).setWidth 32) } := by
  obtain ⟨b, hb⟩ : ∃ b, bufAt a.toNat = some b :=
    h.elim (fun hw => (bufAt_of_writableByte hw).imp fun _ => And.left)
      (fun hr => (bufAt_of_readOnlyByte hr).imp fun _ => And.left)
  exact transact_read_buf hb s

theorem transact_write_writableByte {a : Offset} (h : WritableByte a.toNat) (v : Word) (s : State) :
    transact (.write a 1 v) s = .next { s with mem := memWrite s.mem a.toNat (v.extractLsb' 0 8) } := by
  obtain ⟨b, hb, hrw⟩ := bufAt_of_writableByte h
  rw [transact_write_buf hb, if_pos hrw, BitVec.setWidth_eq_extractLsb' (by decide)]

/-- Settles O11: the bytes of a buffer's string are those at its offsets, and a byte reads as it was written last. -/
theorem bufferBytesReadAndWritten : Obligations.BufferBytesReadAndWritten := by
  refine ⟨fun b start len h => ?_, fun s a v =>
    ⟨fun h => ?_, fun h => ?_, fun h => transact_write_readOnlyByte h v s⟩⟩
  · rw [bufferTable_eq, List.mem_map] at h
    obtain ⟨b', -, hrow⟩ := h
    cases hrow
    exact ⟨rfl, rfl, fun _ => rfl, fun s k hk => byteAt_loadBuf _ b s k rfl hk⟩
  · exact ⟨_, transact_read_byte h s, extractLsb'_setWidth_byte _⟩
  · exact ⟨_, transact_write_writableByte h v s, memRead_memWrite_same _ _ _, memRead_memWrite_other _ _ _⟩

end Sys2Proof.Claims
end

section
/-! PROOFS. Which words decode, and what the other words do (30_encoding.md R151 to R155, 60_exceptions.md R504). -/

namespace Sys2Proof.Machine

open Sys2Proof.Claims

/-! ## The opcode map -/

/-- The largest legal ARG of an opcode (30_encoding.md R154). -/
def maxArgOf (op : Nat) : Nat := if op = 0x34 then 11 else if op = 0x51 ∨ op = 0x52 then 2 else 0

theorem maxArg_of_mem_opcodeMap : ∀ row ∈ opcodeMap, row.maxArg = maxArgOf row.op.toNat := by decide

/-- The reserved ranges of R155 fill the gaps between the rows of R153. -/
theorem mem_opcodeMap_iff_not_reserved (op : BitVec 8) : (∃ row ∈ opcodeMap, row.op = op) ↔ ¬ ReservedOp op.toNat := by
  simp only [opcodeMap, List.mem_cons, List.not_mem_nil, or_false, exists_eq_or_imp, exists_eq_left,
    ← BitVec.toNat_inj, BitVec.reduceToNat]
  omega

/-! ## The words that decode -/

theorem decode_of_mbz_ne_zero {v : Word} (h : v.extractLsb' 12 20 ≠ 0) : decode v = .error .mbzNotZero := if_pos h

theorem decode_of_no_row {v : Word} (hmbz : v.extractLsb' 12 20 = 0)
    (hfind : opcodeMap.find? (fun row => row.op == v.extractLsb' 0 8) = none) :
    decode v = .error .reservedOpcode := by
  simp only [decode, hmbz, hfind, ne_eq, not_true_eq_false, if_false]

theorem decode_of_row {v : Word} {row : OpcodeRow} (hmbz : v.extractLsb' 12 20 = 0)
    (hfind : opcodeMap.find? (fun row => row.op == v.extractLsb' 0 8) = some row) :
    decode v = if (v.extractLsb' 8 4).toNat ≤ row.maxArg then .ok (row.command (v.extractLsb' 8 4))
      else .error .argOutOfRange := by
  simp only [decode, hmbz, hfind, ne_eq, not_true_eq_false, if_false]

/-- The range of the row that is found is the range of its OP, so it does not matter which row is found. -/
theorem decodes_iff (v : Word) : (∃ i, decode v = .ok i) ↔
    v.extractLsb' 12 20 = 0 ∧ (∃ row ∈ opcodeMap, row.op = v.extractLsb' 0 8) ∧
      (v.extractLsb' 8 4).toNat ≤ maxArgOf (v.extractLsb' 0 8).toNat := by
  by_cases hmbz : v.extractLsb' 12 20 = 0
  · cases hfind : opcodeMap.find? (fun row => row.op == v.extractLsb' 0 8) with
    | none =>
      have hnone : ¬ ∃ row ∈ opcodeMap, row.op = v.extractLsb' 0 8 := by simpa using hfind
      simp only [decode_of_no_row hmbz hfind, hnone, reduceCtorEq, exists_false, false_and, and_false]
    | some row =>
      have hmem : row ∈ opcodeMap := List.mem_of_find?_eq_some hfind
      have hop : row.op = v.extractLsb' 0 8 := by simpa using List.find?_some hfind
      have hrow : ∃ row ∈ opcodeMap, row.op = v.extractLsb' 0 8 := ⟨row, hmem, hop⟩
      have hmax : maxArgOf (v.extractLsb' 0 8).toNat = row.maxArg := hop ▸ (maxArg_of_mem_opcodeMap row hmem).symm
      rw [decode_of_row hmbz hfind, hmax]
      split_ifs with harg <;> simp [hmbz, hrow, harg, -BitVec.extractLsb'_toNat]
  · simp only [decode_of_mbz_ne_zero hmbz, hmbz, reduceCtorEq, exists_false, false_and]

/-! ## The legal words -/

theorem opField_toNat (v : Word) : (v.extractLsb' 0 8).toNat = v.toNat % 256 := by
  rw [BitVec.extractLsb'_toNat, Nat.shiftRight_zero]

theorem argField_toNat (v : Word) : (v.extractLsb' 8 4).toNat = v.toNat / 256 % 16 := by
  rw [BitVec.extractLsb'_toNat, Nat.shiftRight_eq_div_pow]

theorem mbzField_eq_zero_iff (v : Word) : v.extractLsb' 12 20 = 0 ↔ v.toNat / 4096 = 0 := by
  have hfield : (v.extractLsb' 12 20).toNat = v.toNat / 4096 % 2 ^ 20 := by
    rw [BitVec.extractLsb'_toNat, Nat.shiftRight_eq_div_pow]
  have hlt : v.toNat < 2 ^ 32 := v.isLt
  rw [← BitVec.toNat_inj, hfield, BitVec.ofNat_eq_ofNat, BitVec.toNat_ofNat, Nat.zero_mod]
  omega

/-- R151 speaks of the word's number, the decoder of its fields. -/
theorem legalWord_iff_fields (v : Word) : LegalWord v ↔
    v.extractLsb' 12 20 = 0 ∧ ¬ ReservedOp (v.extractLsb' 0 8).toNat ∧
      (v.extractLsb' 8 4).toNat ≤ maxArgOf (v.extractLsb' 0 8).toNat := by
  rw [mbzField_eq_zero_iff, opField_toNat, argField_toNat]
  rfl

theorem legalWord_iff_decodes (v : Word) : LegalWord v ↔ ∃ i, decode v = .ok i := by
  rw [legalWord_iff_fields, decodes_iff, mem_opcodeMap_iff_not_reserved]

/-! ## The words that do not -/

theorem decode_error_of_not_legalWord {v : Word} (h : ¬ LegalWord v) : ∃ e, decode v = .error e := by
  cases hdecode : decode v with
  | ok i => exact absurd ((legalWord_iff_decodes v).mpr ⟨i, hdecode⟩) h
  | error e => exact ⟨e, rfl⟩

/-- The error entry of a command, after R152's RESULT <- 0. -/
theorem errorEntry_clearResult (c : ErrCode) (s : State) :
    errorEntry c true (clearResult s) = afterError (errCodeValue c) s := by
  rw [errorEntry, Bool.or_true]
  rfl

theorem executeWord_of_not_legalWord {v : Word} (h : ¬ LegalWord v) (s : State) :
    executeWord v s = .next (afterError 1 s) := by
  obtain ⟨e, he⟩ := decode_error_of_not_legalWord h
  simp only [executeWord, he, errorEntry_clearResult, errCodeValue]

end Sys2Proof.Machine

namespace Sys2Proof.Claims

open Sys2Proof.Machine

/-- Settles O2: R151's ranges are those of the opcode map's rows, and a word they exclude ends in error entry. -/
theorem illegalWordsRaiseIllegalCmd : Obligations.IllegalWordsRaiseIllegalCmd := fun v =>
  ⟨legalWord_iff_decodes v, fun s h => executeWord_of_not_legalWord h s⟩

end Sys2Proof.Claims
end

section
/-! PROOFS. What the commands of 43_fec_block.md share: the state after a command whose results are DATA_OUT and
RESULT (R350), weights of words that differ in single bits, and the distance of a linear code. -/

namespace Sys2Proof.Machine

open Sys2Proof.Claims

/-! ## The commands whose results are DATA_OUT and RESULT -/

/-- The next state of such a command: v in DATA_OUT, r in RESULT, DONE. -/
def dataCommandState {n : Nat} (v : BitVec n) (r : Result) (s : State) : State :=
  setDone { writeDataOut v (clearResult s) with result := r }

theorem encoderRule_runs {k n : Nat} (enc : BitVec k → BitVec n) (s : State) :
    runCommand (encoderRule enc) s = .next (dataCommandState (enc (dataInBits k s)) clearedResult s) :=
  runCommand_encoderRule enc s

theorem decoderRule_runs {n k : Nat} (dec : BitVec n → BitVec k × DecOutcome) (s : State) :
    runCommand (decoderRule dec) s = .next (dataCommandState (dec (dataInBits n s)).1
      (recordOutcome (dec (dataInBits n s)).2 clearedResult) s) :=
  runCommand_decoderRule dec s

theorem dataCommandState_frame {n : Nat} (v : BitVec n) (r : Result) (s : State) :
    DataCommandFrame s (dataCommandState v r s) := by
  have hmem : MemSameOutside [.dataOut] s (dataCommandState v r s) := fun a ha =>
    memRead_writeDataOut_outside v (clearResult s) a (ha .dataOut (List.mem_singleton_self _))
  exact ⟨⟨rfl, rfl, rfl, rfl, rfl⟩, ⟨rfl, rfl⟩, ⟨rfl, rfl, rfl⟩, rfl, hmem⟩

theorem dataCommandState_delivers {n : Nat} (v : BitVec n) (r : Result) (s : State) :
    Delivers (dataCommandState v r s) v r :=
  ⟨loadBuf_writeDataOut v (clearResult s), rfl⟩

theorem getMsbD_dataInBits {n i : Nat} (hn : n ≤ 256) (hi : i < n) (s : State) :
    (dataInBits n s).getMsbD i = (loadBuf 256 .dataIn s).getMsbD i := by
  rw [dataInBits, getMsbD_bits _ _ _ _ (by omega), Nat.zero_add]
  simp [hi]

/-! ## Weights -/

theorem onesBelow_xor_mod_two {w : Nat} (s t : BitVec w) (k : Nat) :
    onesBelow (s ^^^ t) k % 2 = (onesBelow s k + onesBelow t k) % 2 := by
  induction k with
  | zero => rfl
  | succ k ih =>
    simp only [onesBelow, BitVec.getLsbD_xor]
    cases s.getLsbD k <;> cases t.getLsbD k <;> simp <;> omega

theorem wt_xor_mod_two {w : Nat} (s t : BitVec w) : wt (s ^^^ t) % 2 = (wt s + wt t) % 2 :=
  onesBelow_xor_mod_two s t w

theorem flipBit_flipBit {w : Nat} (s : BitVec w) (i : Nat) : flipBit (flipBit s i) i = s := by
  unfold flipBit
  rw [BitVec.xor_assoc, BitVec.xor_self, BitVec.xor_zero]

/-- Clearing a bit that is set takes one from each count that reaches past it. -/
theorem onesBelow_xor_twoPow {w i : Nat} {s : BitVec w} (hi : s.getLsbD i = true) (k : Nat) :
    onesBelow (s ^^^ BitVec.twoPow w i) k + (if i < k then 1 else 0) = onesBelow s k := by
  have hw : i < w := BitVec.lt_of_getLsbD hi
  induction k with
  | zero => rfl
  | succ k ih =>
    simp only [onesBelow, BitVec.getLsbD_xor, BitVec.getLsbD_twoPow, hw, decide_true, Bool.true_and]
    by_cases hik : i = k
    · subst hik
      simp [hi] at ih ⊢
      omega
    · have hlt : (i < k + 1) = (i < k) := by
        rw [Nat.lt_succ_iff_lt_or_eq]
        simp [hik]
      simp only [hlt, hik, decide_false, Bool.xor_false]
      omega

theorem wt_flipBit_of_set {w i : Nat} {s : BitVec w} (hi : s.getMsbD i = true) : wt (flipBit s i) + 1 = wt s := by
  rw [BitVec.getMsbD_eq_getLsbD, Bool.and_eq_true, decide_eq_true_eq] at hi
  obtain ⟨hlt, hbit⟩ := hi
  have hcount := onesBelow_xor_twoPow hbit w
  rwa [if_pos (by omega)] at hcount

/-- A word of weight n + 1 is a word of weight n and one more bit. -/
theorem exists_flipBit_of_wt {w n : Nat} {s : BitVec w} (h : wt s = n + 1) :
    ∃ t i, i < w ∧ wt t = n ∧ s = flipBit t i := by
  have hne : s ≠ 0#w := fun h0 => by simp [h0] at h
  obtain ⟨i, hi⟩ : ∃ i, s.getMsbD i = true := by
    by_contra hnone
    refine hne (eq_of_getMsbD fun i _ => ?_)
    simpa using not_exists.mp hnone i
  have hwt := wt_flipBit_of_set hi
  exact ⟨flipBit s i, i, BitVec.lt_of_getMsbD hi, by omega, (flipBit_flipBit s i).symm⟩

/-! ## The distance of a linear code -/

/-- The codewords of two different data words differ in at least m bits. -/
abbrev MinDistance {k n : Nat} (enc : BitVec k → BitVec n) (m : Nat) : Prop :=
  ∀ u v, u ≠ v → m ≤ dist (enc u) (enc v)

/-- A linear code's distance is the weight of its lightest nonzero codeword. -/
theorem minDistance_of_le_wt {n k m : Nat} {enc : BitVec k → BitVec n}
    (hxor : ∀ u v, enc (u ^^^ v) = enc u ^^^ enc v) (hwt : ∀ v, v ≠ 0 → m ≤ wt (enc v)) :
    MinDistance enc m := by
  intro u v hne
  rw [dist, ← hxor]
  exact hwt _ fun h => hne (BitVec.xor_eq_zero_iff.mp h)

end Sys2Proof.Machine
end

section
/-! PROOFS. The Hamming encoders (43_fec_block.md R351, R353, R355): the bits of a codeword, and the minimum distance
read off the columns of the parity check. -/

namespace Sys2Proof.Machine

open Sys2Proof.Claims

/-! ## Parity -/

theorem parityOf_congr {v w : Nat} {s : BitVec v} {t : BitVec w} {is : List Nat}
    (h : ∀ i ∈ is, s.getMsbD i = t.getMsbD i) : parityOf s is = parityOf t is := by
  induction is with
  | nil => rfl
  | cons i is ih =>
    rw [parityOf, parityOf, h i List.mem_cons_self, ih fun j hj => h j (List.mem_cons_of_mem i hj)]

theorem foldl_xor_eq_parityOf {w : Nat} (s : BitVec w) (is : List Nat) (b : Bool) :
    is.foldl (fun acc i => acc ^^ s.getMsbD i) b = (b ^^ parityOf s is) := by
  induction is generalizing b with
  | nil => exact (Bool.xor_false b).symm
  | cons i is ih => rw [List.foldl_cons, ih, parityOf, Bool.xor_assoc]

/-- The parity as the spec writes its equations, grouped from the left. -/
theorem parityOf_cons_eq_foldl {w : Nat} (s : BitVec w) (i : Nat) (is : List Nat) :
    parityOf s (i :: is) = is.foldl (fun acc j => acc ^^ s.getMsbD j) (s.getMsbD i) :=
  (foldl_xor_eq_parityOf s is _).symm

/-- There are r equations, and each is over the k data bits. -/
abbrev OverDataBits (k r : Nat) (eqs : List (List Nat)) : Prop := eqs.length = r ∧ ∀ eq ∈ eqs, ∀ i ∈ eq, i < k

theorem lt_of_getD_eq_cons {k r j i : Nat} {is : List Nat} {eqs : List (List Nat)} (hover : OverDataBits k r eqs)
    (heq : eqs.getD j [] = i :: is) : j < r := by
  by_contra hj
  rw [List.getD_eq_default _ _ (hover.1 ▸ Nat.not_lt.mp hj)] at heq
  cases heq

/-- An equation sees nothing but the data bits. -/
theorem parityOf_eq_of_data_eq {v w k r : Nat} {s : BitVec v} {t : BitVec w} {eqs : List (List Nat)}
    (hover : OverDataBits k r eqs) (h : ∀ i < k, s.getMsbD i = t.getMsbD i) {j : Nat} (hj : j < r) :
    parityOf s (eqs.getD j []) = parityOf t (eqs.getD j []) := by
  obtain ⟨hlen, hlt⟩ := hover
  refine parityOf_congr fun i hi => h i (hlt _ ?_ i hi)
  rw [List.getD_eq_getElem _ _ (hlen ▸ hj)]
  exact List.getElem_mem _

/-! ## Codewords -/

/-- The codeword of d under r parity equations over its bits. -/
def hamEncode {k : Nat} (r : Nat) (eqs : List (List Nat)) (d : BitVec k) : BitVec (k + r) := d ++ hamParity r eqs d

theorem h15Encode_eq_hamEncode : h15Encode = hamEncode 4 h15Eqs := rfl

theorem h13Encode_eq_hamEncode : h13Encode = hamEncode 4 h13Eqs := rfl

theorem h16Encode_eq_hamEncode : h16Encode = hamEncode 5 h16Eqs := rfl

theorem h15Eqs_overDataBits : OverDataBits 11 4 h15Eqs := by decide

theorem h13Eqs_overDataBits : OverDataBits 9 4 h13Eqs := by decide

theorem h16Eqs_overDataBits : OverDataBits 11 5 h16Eqs := by decide

section
variable {k r : Nat} (eqs : List (List Nat)) (d e : BitVec k)

theorem getMsbD_hamEncode_data {i : Nat} (hi : i < k) : (hamEncode r eqs d).getMsbD i = d.getMsbD i := by
  rw [hamEncode, BitVec.getMsbD_append, if_neg (Nat.not_le.mpr hi)]

theorem getMsbD_hamEncode_parity {j : Nat} (hj : j < r) :
    (hamEncode r eqs d).getMsbD (k + j) = parityOf d (eqs.getD j []) := by
  rw [hamEncode, BitVec.getMsbD_append, if_pos (Nat.le_add_right k j), hamParity, getMsbD_mkBits,
    Nat.add_sub_cancel_left]
  simp [hj]

theorem hamEncode_xor : hamEncode r eqs (d ^^^ e) = hamEncode r eqs d ^^^ hamEncode r eqs e := by
  unfold hamEncode
  rw [hamParity_xor, append_xor]

theorem hamEncode_ne_zero {d : BitVec k} (hd : d ≠ 0) : hamEncode r eqs d ≠ 0 := fun h0 =>
  hd <| eq_of_getMsbD fun i hi => by
    rw [← getMsbD_hamEncode_data eqs d hi, h0]
    simp

end

/-! ## Syndromes -/

theorem hamSyndrome_eq_zero {w k : Nat} {c : BitVec w} {eqs : List (List Nat)}
    (h : ∀ j < eqs.length, c.getMsbD (k + j) = parityOf c (eqs.getD j [])) : hamSyndrome c k eqs = 0 := by
  induction eqs generalizing k with
  | nil => rfl
  | cons eq eqs ih =>
    have hhead : c.getMsbD k = parityOf c eq := h 0 (Nat.zero_lt_succ _)
    have htail : hamSyndrome c (k + 1) eqs = 0 := ih fun j hj => by
      have hnext := h (j + 1) (Nat.succ_lt_succ hj)
      rwa [List.getD_cons_succ, Nat.add_comm j, ← Nat.add_assoc] at hnext
    rw [hamSyndrome, hhead, htail, Bool.xor_self]
    rfl

theorem hamSyndrome_hamEncode {k r : Nat} {eqs : List (List Nat)} (hover : OverDataBits k r eqs) (d : BitVec k) :
    hamSyndrome (hamEncode r eqs d) k eqs = 0 :=
  hamSyndrome_eq_zero fun j hj => by
    have hjr : j < r := hover.1 ▸ hj
    rw [getMsbD_hamEncode_parity eqs d hjr]
    exact parityOf_eq_of_data_eq hover (fun i hi => (getMsbD_hamEncode_data eqs d hi).symm) hjr

/-- The syndrome of a single error in bit i: the set of equations that contain i (43_fec_block.md R352). -/
def hamColumn (w k : Nat) (eqs : List (List Nat)) (i : Nat) : Nat := hamSyndrome (flipBit (0 : BitVec w) i) k eqs

/-- No single error has the syndrome 0, and no two single errors have the same. -/
abbrev DistinctColumns (w k : Nat) (eqs : List (List Nat)) : Prop :=
  (0 :: (List.range w).map (hamColumn w k eqs)).Nodup

/-- Every single error has a syndrome of odd weight. -/
abbrev OddColumns (w k r : Nat) (eqs : List (List Nat)) : Prop :=
  ∀ i < w, wt (BitVec.ofNat r (hamColumn w k eqs i)) % 2 = 1

theorem h15Eqs_distinctColumns : DistinctColumns 15 11 h15Eqs := by decide

theorem h13Eqs_distinctColumns : DistinctColumns 13 9 h13Eqs := by decide

theorem h16Eqs_distinctColumns : DistinctColumns 16 11 h16Eqs := by decide

theorem h16Eqs_oddColumns : OddColumns 16 11 5 h16Eqs := by decide

section
variable {w k : Nat} {eqs : List (List Nat)}

@[simp] theorem hamSyndrome_zero : hamSyndrome (0#w) k eqs = 0 := by
  simpa using hamSyndrome_xor (0#w) (0#w) k eqs

theorem hamSyndrome_flipBit (c : BitVec w) (i : Nat) :
    hamSyndrome (flipBit c i) k eqs = hamSyndrome c k eqs ^^^ hamColumn w k eqs i := by
  have hflip : flipBit c i = c ^^^ flipBit 0 i := by simp [flipBit]
  rw [hflip, hamSyndrome_xor, hamColumn]

theorem hamColumn_ne_zero (hcols : DistinctColumns w k eqs) {i : Nat} (hi : i < w) : hamColumn w k eqs i ≠ 0 :=
  fun h0 => (List.nodup_cons.mp hcols).1 (List.mem_map.mpr ⟨i, List.mem_range.mpr hi, h0⟩)

theorem hamColumn_injective (hcols : DistinctColumns w k eqs) {i j : Nat} (hi : i < w) (hj : j < w)
    (hij : hamColumn w k eqs i = hamColumn w k eqs j) : i = j :=
  List.inj_on_of_nodup_map (List.nodup_cons.mp hcols).2 (List.mem_range.mpr hi) (List.mem_range.mpr hj) hij

/-! ## Minimum weight -/

/-- The syndrome of a word of weight 1 is a column, and of a word of weight 2 the sum of two different columns. -/
theorem three_le_wt_of_hamSyndrome_eq_zero (hcols : DistinctColumns w k eqs) {c : BitVec w}
    (hc : hamSyndrome c k eqs = 0) (hne : c ≠ 0) : 3 ≤ wt c := by
  match hn : wt c with
  | 0 => exact absurd ((wt_eq_zero c).mp hn) hne
  | 1 =>
    obtain ⟨t, i, hi, ht, rfl⟩ := exists_flipBit_of_wt hn
    rw [hamSyndrome_flipBit, (wt_eq_zero t).mp ht] at hc
    exact absurd (by simpa using hc) (hamColumn_ne_zero hcols hi)
  | 2 =>
    obtain ⟨t, i, hi, ht, rfl⟩ := exists_flipBit_of_wt hn
    obtain ⟨u, j, hj, hu, rfl⟩ := exists_flipBit_of_wt ht
    obtain rfl := (wt_eq_zero u).mp hu
    rw [hamSyndrome_flipBit, hamSyndrome_flipBit, Nat.xor_eq_zero_iff] at hc
    obtain rfl := hamColumn_injective hcols hj hi (by simpa using hc)
    exact absurd (flipBit_flipBit 0 j) hne
  | n + 3 => exact Nat.le_add_left 3 n

/-- Each bit of a word changes the parity of its weight and that of its syndrome's weight. -/
theorem wt_hamSyndrome_mod_two {r : Nat} (hodd : OddColumns w k r eqs) (c : BitVec w) :
    wt (BitVec.ofNat r (hamSyndrome c k eqs)) % 2 = wt c % 2 := by
  induction hn : wt c generalizing c with
  | zero => simp [(wt_eq_zero c).mp hn]
  | succ n ih =>
    obtain ⟨t, i, hi, ht, rfl⟩ := exists_flipBit_of_wt hn
    have hrest := ih t ht
    have hbit := hodd i hi
    rw [hamSyndrome_flipBit, BitVec.ofNat_xor, wt_xor_mod_two]
    omega

end

/-! ## Minimum distance -/

section
variable {k r : Nat} {eqs : List (List Nat)}

theorem three_le_wt_hamEncode (hover : OverDataBits k r eqs) (hcols : DistinctColumns (k + r) k eqs) (d : BitVec k)
    (hd : d ≠ 0) : 3 ≤ wt (hamEncode r eqs d) :=
  three_le_wt_of_hamSyndrome_eq_zero hcols (hamSyndrome_hamEncode hover d) (hamEncode_ne_zero eqs hd)

theorem wt_hamEncode_mod_two (hover : OverDataBits k r eqs) (hodd : OddColumns (k + r) k r eqs) (d : BitVec k) :
    wt (hamEncode r eqs d) % 2 = 0 := by
  rw [← wt_hamSyndrome_mod_two hodd, hamSyndrome_hamEncode hover]
  simp

theorem minDistance_three_hamEncode (hover : OverDataBits k r eqs) (hcols : DistinctColumns (k + r) k eqs) :
    MinDistance (hamEncode (k := k) r eqs) 3 :=
  minDistance_of_le_wt (hamEncode_xor eqs) (three_le_wt_hamEncode hover hcols)

theorem minDistance_four_hamEncode (hover : OverDataBits k r eqs) (hcols : DistinctColumns (k + r) k eqs)
    (hodd : OddColumns (k + r) k r eqs) : MinDistance (hamEncode (k := k) r eqs) 4 :=
  minDistance_of_le_wt (hamEncode_xor eqs) fun d hd => by
    have hthree := three_le_wt_hamEncode hover hcols d hd
    have heven := wt_hamEncode_mod_two hover hodd d
    omega

/-! ## The encoder commands -/

/-- An encoder command writes the data bits, then the parity bits, then zeros (43_fec_block.md R350). -/
theorem hamEncoder_writes (hover : OverDataBits k r eqs) (hfits : k + r ≤ 256) (s : State) :
    ∃ t, runCommand (encoderRule (hamEncode (k := k) r eqs)) s = .next t ∧ DataCommandFrame s t ∧
      t.result = clearedResult ∧
      (∀ i, i < k → (loadBuf 256 .dataOut t).getMsbD i = (loadBuf 256 .dataIn s).getMsbD i) ∧
      (∀ {j i is}, eqs.getD j [] = i :: is → (loadBuf 256 .dataOut t).getMsbD (k + j) =
        is.foldl (fun acc m => acc ^^ (loadBuf 256 .dataIn s).getMsbD m) ((loadBuf 256 .dataIn s).getMsbD i)) ∧
      ∀ i, k + r ≤ i → (loadBuf 256 .dataOut t).getMsbD i = false := by
  have hin (i : Nat) (hi : i < k) := getMsbD_dataInBits (Nat.le_of_add_right_le hfits) hi s
  obtain ⟨hout, hresult⟩ := dataCommandState_delivers (hamEncode r eqs (dataInBits k s)) clearedResult s
  refine ⟨_, encoderRule_runs _ s, dataCommandState_frame _ _ s, hresult, fun i hi => ?_,
    fun {j i is} heq => ?_, fun i hi => ?_⟩ <;> rw [hout, getMsbD_padTo _ _ _ hfits]
  · rw [getMsbD_hamEncode_data eqs _ hi, hin i hi]
  · have hj : j < r := lt_of_getD_eq_cons hover heq
    rw [getMsbD_hamEncode_parity eqs _ hj, parityOf_eq_of_data_eq hover hin hj, heq, parityOf_cons_eq_foldl]
  · exact BitVec.getMsbD_of_ge _ _ hi

end

/-! ## The three codes -/

theorem exec_h15Enc (s : State) : exec .h15Enc s = runCommand (encoderRule (hamEncode (k := 11) 4 h15Eqs)) s := rfl

theorem exec_h13Enc (s : State) : exec .h13Enc s = runCommand (encoderRule (hamEncode (k := 9) 4 h13Eqs)) s := rfl

theorem exec_h16Enc (s : State) : exec .h16Enc s = runCommand (encoderRule (hamEncode (k := 11) 5 h16Eqs)) s := rfl

theorem minDistance_h15Encode : MinDistance h15Encode 3 :=
  h15Encode_eq_hamEncode ▸ minDistance_three_hamEncode h15Eqs_overDataBits h15Eqs_distinctColumns

theorem minDistance_h13Encode : MinDistance h13Encode 3 :=
  h13Encode_eq_hamEncode ▸ minDistance_three_hamEncode h13Eqs_overDataBits h13Eqs_distinctColumns

/-- The fifth equation makes every column odd, so that every codeword is of even weight. -/
theorem minDistance_h16Encode : MinDistance h16Encode 4 :=
  h16Encode_eq_hamEncode ▸ minDistance_four_hamEncode h16Eqs_overDataBits h16Eqs_distinctColumns h16Eqs_oddColumns

end Sys2Proof.Machine

namespace Sys2Proof.Claims

open Sys2Proof.Machine

/-- Settles O18: the parity bits are the four equations of R351, whose columns differ from each other and from 0. -/
theorem h15EncWritesTheCodeword : Obligations.H15EncWritesTheCodeword := by
  refine ⟨fun s => ?_, minDistance_h15Encode, 0, 1, by decide⟩
  rw [exec_h15Enc]
  obtain ⟨t, hexec, hframe, hresult, hdata, hparity, hzero⟩ := hamEncoder_writes h15Eqs_overDataBits (by decide) s
  exact ⟨t, hexec, hframe, hresult, _, _, rfl, rfl, hdata, hparity (j := 0) rfl, hparity (j := 1) rfl,
    hparity (j := 2) rfl, hparity (j := 3) rfl, hzero⟩

/-- Settles O19: as O18, with the four equations of R353. -/
theorem h13EncWritesTheCodeword : Obligations.H13EncWritesTheCodeword := by
  refine ⟨fun s => ?_, minDistance_h13Encode, 0, 1, by decide⟩
  rw [exec_h13Enc]
  obtain ⟨t, hexec, hframe, hresult, hdata, hparity, hzero⟩ := hamEncoder_writes h13Eqs_overDataBits (by decide) s
  exact ⟨t, hexec, hframe, hresult, _, _, rfl, rfl, hdata, hparity (j := 0) rfl, hparity (j := 1) rfl,
    hparity (j := 2) rfl, hparity (j := 3) rfl, hzero⟩

/-- Settles O20: as O18, with the five equations of R355, whose columns are also odd. -/
theorem h16EncWritesTheCodeword : Obligations.H16EncWritesTheCodeword := by
  refine ⟨fun s => ?_, minDistance_h16Encode, 0, 1, by decide⟩
  rw [exec_h16Enc]
  obtain ⟨t, hexec, hframe, hresult, hdata, hparity, hzero⟩ := hamEncoder_writes h16Eqs_overDataBits (by decide) s
  exact ⟨t, hexec, hframe, hresult, _, _, rfl, rfl, hdata, hparity (j := 0) rfl, hparity (j := 1) rfl,
    hparity (j := 2) rfl, hparity (j := 3) rfl, hparity (j := 4) rfl, hzero⟩

end Sys2Proof.Claims
end

section
/-! PROOFS. QR(16,7,6) and Golay(20,8): their encoders are linear, which gives their minimum distances, and a
bounded-distance decoder over a code of such a distance does what R358 and R360 of 43_fec_block.md say. -/

namespace Sys2Proof.Machine

open Sys2Proof.Claims

/-! ## Division of binary polynomials -/

/-- The divisor is taken away from both, from one, or from none; from both it cancels. -/
theorem gf2DivStep_xor (divisor d k a b : Nat) :
    gf2DivStep divisor d k (a ^^^ b) = gf2DivStep divisor d k a ^^^ gf2DivStep divisor d k b := by
  unfold gf2DivStep
  rw [Nat.testBit_xor]
  cases a.testBit (d + k) <;> cases b.testBit (d + k) <;> simp [Nat.xor_comm, Nat.xor_left_comm]

theorem gf2Mod_xor (divisor d k a b : Nat) :
    gf2Mod divisor d k (a ^^^ b) = gf2Mod divisor d k a ^^^ gf2Mod divisor d k b := by
  induction k generalizing a b with
  | zero => rfl
  | succ k ih => rw [gf2Mod, gf2DivStep_xor, ih]; rfl

/-- A step takes away the leading coefficient, which only the divisor's own leading coefficient meets. -/
theorem gf2DivStep_lt {divisor d k a : Nat} (hlead : divisor.testBit d = true) (hdeg : divisor < 2 ^ (d + 1))
    (ha : a < 2 ^ (d + k + 1)) : gf2DivStep divisor d k a < 2 ^ (d + k) := by
  refine Nat.lt_pow_two_of_testBit _ fun i hi => ?_
  have hdiv (j : Nat) (hj : d < j) : divisor.testBit j = false :=
    Nat.testBit_eq_false_of_lt (hdeg.trans_le (Nat.pow_le_pow_right (by decide) hj))
  have habove (h : d + k < i) : a.testBit i = false :=
    Nat.testBit_eq_false_of_lt (ha.trans_le (Nat.pow_le_pow_right (by decide) h))
  unfold gf2DivStep
  split_ifs with htop
  · rw [Nat.testBit_xor, Nat.testBit_shiftLeft]
    rcases hi.lt_or_eq with h | rfl
    · rw [habove h, hdiv (i - k) (by omega)]
      simp
    · simp [htop, hlead]
  · rcases hi.lt_or_eq with h | rfl
    · exact habove h
    · simpa using htop

theorem gf2Mod_lt {divisor d : Nat} (hlead : divisor.testBit d = true) (hdeg : divisor < 2 ^ (d + 1)) {k a : Nat}
    (ha : a < 2 ^ (d + k)) : gf2Mod divisor d k a < 2 ^ d := by
  induction k generalizing a with
  | zero => exact ha
  | succ k ih => exact ih (gf2DivStep_lt hlead hdeg ha)

/-! ## The encoders are linear -/

/-- The codeword of v in the systematic cyclic code of a generator of degree d (43_fec_block.md R357, R359). -/
def cyclicEncode {k : Nat} (n generator d : Nat) (v : BitVec k) : BitVec n :=
  BitVec.ofNat n ((v.toNat <<< d) ||| gf2Mod generator d k (v.toNat <<< d))

theorem qrEncode_eq (v : BitVec 7) : qrEncode v = appendParity (cyclicEncode 15 0x139 8 v) := rfl

theorem golayEncode_eq (v : BitVec 8) : golayEncode v = appendParity (cyclicEncode 19 0xC75 11 v) := rfl

theorem shiftLeft_or_eq_xor {r d : Nat} (hr : r < 2 ^ d) (v : Nat) : v <<< d ||| r = v <<< d ^^^ r := by
  refine Nat.eq_of_testBit_eq fun i => ?_
  rw [Nat.testBit_or, Nat.testBit_xor, Nat.testBit_shiftLeft]
  by_cases hi : d ≤ i
  · simp [Nat.testBit_eq_false_of_lt (hr.trans_le (Nat.pow_le_pow_right (by decide) hi))]
  · simp [hi]

theorem appendParity_xor {w : Nat} (s t : BitVec w) : appendParity (s ^^^ t) = appendParity s ^^^ appendParity t := by
  have hparity : decide (wt (s ^^^ t) % 2 = 1) = (decide (wt s % 2 = 1) ^^ decide (wt t % 2 = 1)) := by
    rw [wt_xor_mod_two]
    rcases Nat.mod_two_eq_zero_or_one (wt s) with hs | hs <;> rcases Nat.mod_two_eq_zero_or_one (wt t) with ht | ht <;>
      simp [Nat.add_mod, hs, ht]
  refine BitVec.eq_of_getLsbD_eq fun i _ => ?_
  simp only [appendParity, BitVec.getLsbD_xor, BitVec.getLsbD_concat, hparity]
  split <;> rfl

theorem cyclicEncode_xor {k n generator d : Nat} (hlead : generator.testBit d = true)
    (hdeg : generator < 2 ^ (d + 1)) (u v : BitVec k) :
    cyclicEncode n generator d (u ^^^ v) = cyclicEncode n generator d u ^^^ cyclicEncode n generator d v := by
  have hshift (x : BitVec k) : x.toNat <<< d < 2 ^ (d + k) := by
    rw [Nat.shiftLeft_eq, pow_add, Nat.mul_comm]
    exact Nat.mul_lt_mul_of_pos_left x.isLt (by positivity)
  have hor (x : BitVec k) := shiftLeft_or_eq_xor (gf2Mod_lt hlead hdeg (hshift x)) x.toNat
  unfold cyclicEncode
  rw [hor, hor, hor, ← BitVec.ofNat_xor, BitVec.toNat_xor, Nat.shiftLeft_xor_distrib, gf2Mod_xor]
  congr 1
  ac_rfl

theorem qrEncode_xor (u v : BitVec 7) : qrEncode (u ^^^ v) = qrEncode u ^^^ qrEncode v := by
  rw [qrEncode_eq, cyclicEncode_xor (by decide) (by decide), appendParity_xor]
  rfl

theorem golayEncode_xor (u v : BitVec 8) : golayEncode (u ^^^ v) = golayEncode u ^^^ golayEncode v := by
  rw [golayEncode_eq, cyclicEncode_xor (by decide) (by decide), appendParity_xor]
  rfl

/-! ## Minimum distance -/

/-- Every one of the 127 nonzero codewords. -/
theorem six_le_wt_qrEncode : ∀ v : BitVec 7, v ≠ 0 → 6 ≤ wt (qrEncode v) := by decide +kernel

/-- Every one of the 255 nonzero codewords. -/
theorem eight_le_wt_golayEncode : ∀ v : BitVec 8, v ≠ 0 → 8 ≤ wt (golayEncode v) := by decide +kernel

theorem minDistance_qrEncode : MinDistance qrEncode 6 :=
  minDistance_of_le_wt qrEncode_xor six_le_wt_qrEncode

theorem minDistance_golayEncode : MinDistance golayEncode 8 :=
  minDistance_of_le_wt golayEncode_xor eight_le_wt_golayEncode

/-! ## RESULT after a decoder -/

theorem recordOutcome_changes {m : Nat} (hm : m ≤ 255) :
    recordOutcome (outcomeOfChanges m) clearedResult = decodedResult m := by
  by_cases h0 : m = 0
  · simp [h0, outcomeOfChanges, recordOutcome, clearedResult]
  · simp [h0, outcomeOfChanges, recordOutcome, clearedResult, sat255, Nat.min_eq_left hm]

/-! ## Bounded-distance decoding -/

section
variable {n k radius : Nat} {enc : BitVec k → BitVec n} {w : BitVec n}

/-- Two codewords so near to one word would be nearer to each other than the code allows. -/
theorem eq_of_dist_add_dist_le (hmin : MinDistance enc (2 * radius + 2)) {u v : BitVec k}
    (hsum : dist w (enc u) + dist w (enc v) ≤ 2 * radius + 1) : u = v := by
  by_contra hne
  have hfar := hmin u v hne
  have hnear := dist_triangle (enc u) w (enc v)
  rw [dist_comm (enc u) w] at hnear
  omega

theorem nearestWithin_of_dist_le (hmin : MinDistance enc (2 * radius + 2)) {v : BitVec k}
    (hv : dist w (enc v) ≤ radius) : nearestWithin enc radius w = (v, outcomeOfChanges (dist w (enc v))) := by
  unfold nearestWithin
  split
  next x hfind =>
    have hx : dist w (enc (BitVec.ofNat k x)) ≤ radius := by simpa using List.find?_some hfind
    have hxv : BitVec.ofNat k x = v := eq_of_dist_add_dist_le hmin (w := w) (by omega)
    rw [hxv]
  next hfind =>
    have hnone := List.find?_eq_none.mp hfind v.toNat (List.mem_range.mpr v.isLt)
    simp [hv] at hnone

theorem nearestWithin_of_lt_dist (hfar : ∀ v, radius < dist w (enc v)) : nearestWithin enc radius w = (0, .fail) := by
  unfold nearestWithin
  split
  next x hfind =>
    have hx : dist w (enc (BitVec.ofNat k x)) ≤ radius := by simpa using List.find?_some hfind
    exact absurd hx (Nat.not_le.mpr (hfar _))
  next => rfl

/-- A word one step outside the radius of a codeword is outside the radius of every codeword. -/
theorem lt_dist_of_dist_eq (hmin : MinDistance enc (2 * radius + 2)) {v : BitVec k}
    (hv : dist w (enc v) = radius + 1) (u : BitVec k) : radius < dist w (enc u) := by
  by_contra hu
  obtain rfl : u = v := eq_of_dist_add_dist_le hmin (w := w) (by omega)
  omega

/-! ## The decoder commands -/

/-- A decoder command over a code whose distance leaves the radius and one more error unambiguous. -/
theorem boundedDecoder_decodes (hmin : MinDistance enc (2 * radius + 2)) (hradius : radius ≤ 255) (s : State) :
    ∃ t, runCommand (decoderRule (nearestWithin enc radius)) s = .next t ∧ DataCommandFrame s t ∧
      ∃ w : BitVec n, w = bits (loadBuf 256 .dataIn s) 0 n ∧
        (∀ v, dist w (enc v) ≤ radius → Delivers t v (decodedResult (dist w (enc v)))) ∧
        ((∀ v, radius < dist w (enc v)) → Delivers t 0#k failedResult) ∧
        ∀ v, dist w (enc v) = radius + 1 → Delivers t 0#k failedResult := by
  have hfail (hfar : ∀ v, radius < dist (dataInBits n s) (enc v)) :
      Delivers (dataCommandState (nearestWithin enc radius (dataInBits n s)).1
        (recordOutcome (nearestWithin enc radius (dataInBits n s)).2 clearedResult) s) 0#k failedResult := by
    rw [nearestWithin_of_lt_dist hfar]
    exact dataCommandState_delivers 0#k failedResult s
  refine ⟨_, decoderRule_runs _ s, dataCommandState_frame _ _ s, dataInBits n s, rfl, fun v hv => ?_, hfail,
    fun v hv => hfail (lt_dist_of_dist_eq hmin hv)⟩
  rw [nearestWithin_of_dist_le hmin hv, recordOutcome_changes (hv.trans hradius)]
  exact dataCommandState_delivers v _ s

end

theorem exec_qrDec (s : State) : exec .qrDec s = runCommand (decoderRule (nearestWithin qrEncode 2)) s := rfl

theorem exec_golDec (s : State) : exec .golDec s = runCommand (decoderRule (nearestWithin golayEncode 3)) s := rfl

end Sys2Proof.Machine

namespace Sys2Proof.Claims

open Sys2Proof.Machine

/-- Settles O26: the minimum distance 6 leaves room for radius 2 and for the detection of 3 errors. -/
theorem qrDecDecodesWithinTwo : Obligations.QrDecDecodesWithinTwo := fun s => by
  rw [exec_qrDec]
  exact boundedDecoder_decodes minDistance_qrEncode (by decide) s

/-- Settles O27: the minimum distance 8 leaves room for radius 3 and for the detection of 4 errors. -/
theorem golDecDecodesWithinThree : Obligations.GolDecDecodesWithinThree := fun s => by
  rw [exec_golDec]
  exact boundedDecoder_decodes minDistance_golayEncode (by decide) s

end Sys2Proof.Claims
end

section
/-! PROOFS. The command word in both directions, and the words of the opcode map (30_encoding.md R150 to R155). -/

namespace Sys2Proof.Machine

open Sys2Proof.Claims

/-! ## From a command to its word -/

theorem encode_fields (i : Instr) : (encode i).extractLsb' 12 20 = 0 ∧ (encode i).extractLsb' 8 4 = argOf i ∧
    (encode i).extractLsb' 0 8 = opcodeOf i :=
  Laws.EncodingFields.fields_of_append (argOf i) (opcodeOf i)

/-- The row of a command's OP gives the command back, and its range is the command's (30_encoding.md R153, R154). -/
theorem opcodeMap_row_of (i : Instr) : ∃ row, opcodeMap.find? (fun row => row.op == opcodeOf i) = some row ∧
    row.command (argOf i) = i ∧ i.wellFormed = decide ((argOf i).toNat ≤ row.maxArg) := by
  cases i <;> exact ⟨_, rfl, rfl, rfl⟩

theorem decode_encode {i : Instr} (h : i.wellFormed = true) : decode (encode i) = .ok i := by
  obtain ⟨hmbz, harg, hop⟩ := encode_fields i
  obtain ⟨row, hfind, hcommand, hrange⟩ := opcodeMap_row_of i
  rw [hrange, decide_eq_true_eq] at h
  rw [decode_of_row hmbz (hop ▸ hfind), harg, if_pos h, hcommand]

theorem decode_of_encode_eq {v : Word} {i : Instr} (hwf : i.wellFormed = true) (hv : encode i = v) :
    decode v = .ok i :=
  hv ▸ decode_encode hwf

/-! ## From a word to its command -/

/-- What a row encodes, within its range, has the row's OP and the given ARG. -/
theorem command_of_mem_opcodeMap : ∀ row ∈ opcodeMap, ∀ arg : BitVec 4, arg.toNat ≤ row.maxArg →
    (row.command arg).wellFormed = true ∧ argOf (row.command arg) = arg ∧ opcodeOf (row.command arg) = row.op := by
  decide

theorem row_of_decode {v : Word} {i : Instr} (h : decode v = .ok i) : v.extractLsb' 12 20 = 0 ∧
    ∃ row ∈ opcodeMap, row.op = v.extractLsb' 0 8 ∧ (v.extractLsb' 8 4).toNat ≤ row.maxArg ∧
      row.command (v.extractLsb' 8 4) = i := by
  have hmbz : v.extractLsb' 12 20 = 0 := ((decodes_iff v).mp ⟨i, h⟩).1
  refine ⟨hmbz, ?_⟩
  cases hfind : opcodeMap.find? (fun row => row.op == v.extractLsb' 0 8) with
  | none =>
    rw [decode_of_no_row hmbz hfind] at h
    cases h
  | some row =>
    rw [decode_of_row hmbz hfind] at h
    split_ifs at h with harg
    cases h
    exact ⟨row, List.mem_of_find?_eq_some hfind, by simpa using List.find?_some hfind, harg, rfl⟩

theorem append_fields (v : Word) : v.extractLsb' 12 20 ++ v.extractLsb' 8 4 ++ v.extractLsb' 0 8 = v := by
  refine BitVec.eq_of_getLsbD_eq fun i hi => ?_
  simp only [BitVec.getLsbD_append, BitVec.getLsbD_extractLsb']
  by_cases hop : i < 8
  · simp [hop]
  · by_cases harg : i - 8 < 4
    · have hbit : 8 + (i - 8) = i := by omega
      simp [hop, harg, hbit]
    · have hbit : 12 + (i - 8 - 4) = i := by omega
      have hlt : i - 8 - 4 < 20 := by omega
      simp [hop, harg, hbit, hlt]

theorem encode_of_decode {v : Word} {i : Instr} (h : decode v = .ok i) : i.wellFormed = true ∧ encode i = v := by
  obtain ⟨hmbz, row, hmem, hop, hrange, rfl⟩ := row_of_decode h
  obtain ⟨hwf, harg, hopcode⟩ := command_of_mem_opcodeMap row hmem _ hrange
  refine ⟨hwf, ?_⟩
  rw [encode, harg, hopcode, hop, ← BitVec.ofNat_eq_ofNat, ← hmbz, append_fields]

/-! ## The reserved OP values -/

theorem ofNat_op_fields {op : Nat} (h : op ≤ 0xFF) :
    (BitVec.ofNat 32 op).extractLsb' 12 20 = 0 ∧ ((BitVec.ofNat 32 op).extractLsb' 0 8).toNat = op := by
  have hop : (BitVec.ofNat 32 op).toNat = op := by
    rw [BitVec.toNat_ofNat]
    omega
  rw [mbzField_eq_zero_iff, opField_toNat, hop]
  omega

theorem decode_reservedOp {op : Nat} (hres : ReservedOp op) (h : op ≤ 0xFF) :
    decode (BitVec.ofNat 32 op) = .error .reservedOpcode := by
  obtain ⟨hmbz, hop⟩ := ofNat_op_fields h
  refine decode_of_no_row hmbz (List.find?_eq_none.mpr fun row hmem hrow => ?_)
  rw [← hop] at hres
  exact (mem_opcodeMap_iff_not_reserved _).mp ⟨row, hmem, by simpa using hrow⟩ hres

/-! ## The words with a legal ARG -/

theorem decode_txData_words :
    ∀ n < 12, decode (BitVec.ofNat 32 (0x34 + 256 * n)) = .ok (.txData (BitVec.ofNat 4 n)) := by
  decide

theorem decode_rsEnc_words : ∀ n < 3, decode (BitVec.ofNat 32 (0x51 + 256 * n)) = .ok (.rsEnc (BitVec.ofNat 4 n)) := by
  decide

theorem decode_rsChk_words : ∀ n < 3, decode (BitVec.ofNat 32 (0x52 + 256 * n)) = .ok (.rsChk (BitVec.ofNat 4 n)) := by
  decide

end Sys2Proof.Machine

namespace Sys2Proof.Claims

open Sys2Proof.Machine

/-- Settles O1: every command's word leads to its own row, and every row encodes commands with its OP. -/
theorem decodeAndEncodeAgree : Obligations.DecodeAndEncodeAgree :=
  ⟨fun _ => decode_encode, fun _ _ => encode_of_decode⟩

/-- Settles O3: each word is the one that its command is encoded to. -/
theorem opcodeMapDecodes : Obligations.OpcodeMapDecodes := by
  refine ⟨?_, fun n hn => decode_txData_words n (Nat.lt_succ_of_le hn),
    fun n hn => ⟨decode_rsEnc_words n (Nat.lt_succ_of_le hn), decode_rsChk_words n (Nat.lt_succ_of_le hn)⟩,
    fun op => decode_reservedOp⟩
  refine ⟨?_, ?_, ?_, ?_, ?_, ?_, ?_, ?_, ?_, ?_, ?_, ?_, ?_, ?_, ?_, ?_, ?_, ?_, ?_, ?_, ?_, ?_, ?_, ?_, ?_⟩ <;>
    exact decode_of_encode_eq rfl rfl

end Sys2Proof.Claims
end

section
/-! PROOFS. Every command as one rule in the frame of 30_encoding.md R152, what the rules can do, and what a
transaction and a step can do: the case analyses that the invariants and the frames are read off. -/

namespace Sys2Proof.Machine

open Sys2Proof.Claims

/-! ## The rule of a command -/

/-- The rule that a command runs in the frame of R152. -/
def ruleOf : Instr → State → Except ErrCode State
  | .nop => fun s => .ok s
  | .softReset => fun s => .ok (resetBlock s)
  | .clrCnt => fun s => .ok { s with fecFailCnt := 0, abortCnt := 0 }
  | .h15Enc => encoderRule h15Encode
  | .h15Dec => decoderRule h15Decode
  | .h13Enc => encoderRule h13Encode
  | .h13Dec => decoderRule h13Decode
  | .h16Enc => encoderRule h16Encode
  | .h16Dec => decoderRule h16Decode
  | .qrEnc => encoderRule qrEncode
  | .qrDec => decoderRule qrDecode
  | .golEnc => encoderRule golayEncode
  | .golDec => decoderRule golayDecode
  | .bptcEnc => encoderRule bptcEncode
  | .bptcDec => decoderRule bptcDecode
  | .embEnc => encoderRule embEncode
  | .embDec => decoderRule embDecode
  | .callStart => callStartRule
  | .txHdr => txHdrRule
  | .txVoice => txVoiceRule
  | .txTerm => txTermRule
  | .txData dt => txDataRule dt
  | .rxBurst => fun s => .ok (rxBurst s)
  | .rxReset => fun s => .ok (restartReassembly 7 s)
  | .lcBuild => lcBuildRule
  | .rsEnc mask => rsEncRule mask
  | .rsChk mask => rsChkRule mask
  | .cs5 => encoderRule fun l : BitVec 72 => BitVec.ofNat 8 (cs5Of l)

theorem exec_eq_runCommand (i : Instr) (s : State) : exec i s = runCommand (ruleOf i) s := by
  cases i <;> rfl

theorem exec_of_rule_ok {i : Instr} {s u : State} (h : ruleOf i (clearResult s) = .ok u) :
    exec i s = .next (setDone u) := by
  rw [exec_eq_runCommand, runCommand_ok h]

theorem exec_of_rule_error {i : Instr} {s : State} {c : ErrCode} (h : ruleOf i (clearResult s) = .error c) :
    exec i s = .next (afterError (errCodeValue c) s) := by
  rw [exec_eq_runCommand, runCommand_error h, errorEntry_clearResult]

/-! ## What a rule that ends normally does -/

/-- `RuleEffect i s u`: the rule of i may take s to u. What goes to DATA_OUT or BURST_OUT is left open. -/
inductive RuleEffect : Instr → State → State → Prop
  | nop (s) : RuleEffect .nop s s
  | softReset (s) : RuleEffect .softReset s (resetBlock s)
  | clrCnt (s) : RuleEffect .clrCnt s { s with fecFailCnt := 0, abortCnt := 0 }
  | dataOut {i n} (hi : i ∉ [.rxBurst, .softReset]) (v : BitVec n) (o : DecOutcome) (s) :
      RuleEffect i s { writeDataOut v s with result := recordOutcome o s.result }
  | callStart (s) (hvalid : validContext s.ctx = true) :
      RuleEffect .callStart s { latch s with tx := { pos := 0, active := true } }
  | voiceAtA (s) (hactive : s.tx.active = true) (hpos : s.tx.pos = 0) (hvalid : validContext s.ctx = true) :
      RuleEffect .txVoice s (sendVoice (latch s))
  | voice (s) (hactive : s.tx.active = true) (hpos : s.tx.pos ≠ 0) : RuleEffect .txVoice s (sendVoice s)
  | burstOut {i} (hi : i ∉ [.rxBurst, .softReset]) (b : BitVec 264) (s) : RuleEffect i s (storeBuf .burstOut b s)
  | txTerm (b : BitVec 264) (s) :
      RuleEffect .txTerm s { storeBuf .burstOut b s with tx := { pos := 0, active := false } }
  | rxBurst (s) : RuleEffect .rxBurst s (rxBurst s)
  | rxReset (s) : RuleEffect .rxReset s (restartReassembly 7 s)

theorem RuleEffect.writeDataOut {i : Instr} {n : Nat} (hi : i ∉ [.rxBurst, .softReset]) (v : BitVec n) (s : State) :
    RuleEffect i s (writeDataOut v s) :=
  .dataOut hi v .ok s

theorem encoderRule_effect {i : Instr} {k n : Nat} {enc : BitVec k → BitVec n} {s u : State}
    (hi : i ∉ [.rxBurst, .softReset]) (h : encoderRule enc s = .ok u) : RuleEffect i s u := by
  cases h
  exact .writeDataOut hi _ s

theorem decoderRule_effect {i : Instr} {k n : Nat} {dec : BitVec n → BitVec k × DecOutcome} {s u : State}
    (hi : i ∉ [.rxBurst, .softReset]) (h : decoderRule dec s = .ok u) : RuleEffect i s u := by
  cases h
  exact .dataOut hi _ _ s

theorem callStartRule_effect {s u : State} (h : callStartRule s = .ok u) : RuleEffect .callStart s u := by
  unfold callStartRule at h
  split_ifs at h with hvalid
  cases h
  exact .callStart s hvalid

theorem txHdrRule_effect {s u : State} (h : txHdrRule s = .ok u) : RuleEffect .txHdr s u := by
  unfold txHdrRule at h
  split_ifs at h
  cases h
  exact .burstOut (by simp) _ s

theorem txVoiceRule_effect {s u : State} (h : txVoiceRule s = .ok u) : RuleEffect .txVoice s u := by
  unfold txVoiceRule at h
  split_ifs at h with hactive hpos hvalid <;> cases h
  · exact .voiceAtA s hactive hpos hvalid
  · exact .voice s hactive hpos

theorem txTermRule_effect {s u : State} (h : txTermRule s = .ok u) : RuleEffect .txTerm s u := by
  unfold txTermRule at h
  split_ifs at h
  cases h
  exact .txTerm _ s

theorem txDataRule_effect {dt : BitVec 4} {s u : State} (h : txDataRule dt s = .ok u) :
    RuleEffect (.txData dt) s u := by
  unfold txDataRule at h
  split_ifs at h
  cases h
  exact .burstOut (by simp) _ s

theorem lcBuildRule_effect {s u : State} (h : lcBuildRule s = .ok u) : RuleEffect .lcBuild s u := by
  unfold lcBuildRule at h
  split_ifs at h
  cases h
  exact .writeDataOut (by simp) _ s

theorem rsEncRule_effect {mask : BitVec 4} {s u : State} (h : rsEncRule mask s = .ok u) :
    RuleEffect (.rsEnc mask) s u := by
  unfold rsEncRule at h
  split_ifs at h
  cases h
  exact .writeDataOut (by simp) _ s

theorem rsChkRule_effect {mask : BitVec 4} {s u : State} (h : rsChkRule mask s = .ok u) :
    RuleEffect (.rsChk mask) s u := by
  unfold rsChkRule at h
  split_ifs at h <;> cases h
  · exact .writeDataOut (by simp) _ s
  · exact .dataOut (by simp) _ .fail s

theorem ruleOf_effect {i : Instr} {s u : State} (h : ruleOf i s = .ok u) : RuleEffect i s u := by
  cases i <;> simp only [ruleOf] at h
  case nop => exact Except.ok.inj h ▸ .nop s
  case softReset => exact Except.ok.inj h ▸ .softReset s
  case clrCnt => exact Except.ok.inj h ▸ .clrCnt s
  case rxBurst => exact Except.ok.inj h ▸ .rxBurst s
  case rxReset => exact Except.ok.inj h ▸ .rxReset s
  case callStart => exact callStartRule_effect h
  case txHdr => exact txHdrRule_effect h
  case txVoice => exact txVoiceRule_effect h
  case txTerm => exact txTermRule_effect h
  case txData => exact txDataRule_effect h
  case lcBuild => exact lcBuildRule_effect h
  case rsEnc => exact rsEncRule_effect h
  case rsChk => exact rsChkRule_effect h
  case h15Enc | h13Enc | h16Enc | qrEnc | golEnc | bptcEnc | embEnc | cs5 => exact encoderRule_effect (by simp) h
  case h15Dec | h13Dec | h16Dec | qrDec | golDec | bptcDec | embDec => exact decoderRule_effect (by simp) h

/-- Everything a command can answer. -/
theorem exec_cases {i : Instr} {s t : State} (h : exec i s = .next t) :
    (∃ u, RuleEffect i (clearResult s) u ∧ t = setDone u) ∨ ∃ c, t = errorEntry c true (clearResult s) := by
  rw [exec_eq_runCommand] at h
  obtain ⟨u, hu, rfl⟩ | ⟨c, -, rfl⟩ := runCommand_cases h
  · exact .inl ⟨u, ruleOf_effect hu, rfl⟩
  · exact .inr ⟨c, rfl⟩

/-- Everything a word written to CMD can answer. -/
theorem executeWord_cases {v : Word} {s t : State} (h : executeWord v s = .next t) :
    (∃ i u, decode v = .ok i ∧ RuleEffect i (clearResult s) u ∧ t = setDone u) ∨
      ∃ c, t = errorEntry c true (clearResult s) := by
  unfold executeWord at h
  split at h
  next i hi =>
    obtain ⟨u, hu, rfl⟩ | herror := exec_cases h
    · exact .inl ⟨i, u, hi, hu, rfl⟩
    · exact .inr herror
  next =>
    cases h
    exact .inr ⟨_, rfl⟩

/-! ## What a transaction does -/

/-- `TxnEffect t s u`: the transaction t may take s to u. -/
inductive TxnEffect : Txn → State → State → Prop
  | read (a w) (r : Word) (s) : TxnEffect (.read a w) s (respond r s)
  | readError (a w) (s) : TxnEffect (.read a w) s (respond 0 (busError s))
  | writeError (a w v) (s) : TxnEffect (.write a w v) s (busError s)
  | ctrl (v) (s) : TxnEffect (.write 0x004 4 v) s { s with ctrl := writeCtrl s.ctrl v }
  | status (v) (s) : TxnEffect (.write 0x008 4 v) s (acknowledge v s)
  | cmd {v s u} (h : executeWord v s = .next u) : TxnEffect (.write 0x00C 4 v) s u
  | ctx (a v) (c : Context) (s) : TxnEffect (.write a 4 v) s { s with ctx := c }
  | byte {a b} (v) (s) (hbuf : bufAt a.toNat = some b) (hwritable : bufWritable b = true) :
      TxnEffect (.write a 1 v) s { s with mem := memWrite s.mem a.toNat (v.setWidth 8) }

theorem busRead_effect (a : Offset) (w : Nat) (s : State) : TxnEffect (.read a w) s (busRead a w s) := by
  unfold busRead
  split_ifs
  · split
    · exact .read ..
    · exact .readError ..
  · split
    · exact .read ..
    · exact .readError ..
  · exact .readError ..

theorem writeReg_effect {r : Reg} {v : Word} {s u : State} (h : writeReg r v s = .next u) :
    TxnEffect (.write (regOffset r) 4 v) s u := by
  cases r
  case cmd => exact .cmd h
  case ctrl => cases h; exact .ctrl v s
  case status => cases h; exact .status v s
  case ctxCfg | ctxDst | ctxSrc | ctxOpt => cases h; exact .ctx _ v _ s
  all_goals cases h; exact .writeError _ _ v s

theorem busWrite_effect {a : Offset} {w : Nat} {v : Word} {s u : State} (h : busWrite a w v s = .next u) :
    TxnEffect (.write a w v) s u := by
  unfold busWrite at h
  split_ifs at h with h4 h1
  · subst h4
    split at h
    next r hr => exact regOffset_of_regAt hr ▸ writeReg_effect h
    next => cases h; exact .writeError ..
  · subst h1
    split at h
    next b hb =>
      split_ifs at h with hwritable <;> cases h
      · exact .byte v s hb hwritable
      · exact .writeError ..
    next => cases h; exact .writeError ..
  · cases h
    exact .writeError ..

theorem transact_effect {t : Txn} {s u : State} (h : transact t s = .next u) : TxnEffect t s u := by
  cases t with
  | read a w => cases h; exact busRead_effect a w s
  | write a w v => exact busWrite_effect h

/-! ## Invariants -/

/-- An invariant of the block: it does not speak of the reset input and the host's side of the bus, holds at reset,
and is kept by everything that a transaction and a command are made of. -/
structure BlockInvariant (P : State → Prop) : Prop where
  side : ∀ s rst inputs response, P s → P { s with rst := rst, inputs := inputs, response := response }
  reset : P State.reset
  ctrl : ∀ s v, P s → P { s with ctrl := writeCtrl s.ctrl v }
  acknowledge : ∀ s v, P s → P (acknowledge v s)
  ctx : ∀ s c, P s → P { s with ctx := c }
  byte : ∀ s a b v, bufAt a = some b → bufWritable b = true → P s → P { s with mem := memWrite s.mem a v }
  clearResult : ∀ s, P s → P (clearResult s)
  error : ∀ s c d, P s → P (errorEntry c d s)
  done : ∀ s, P s → P (setDone s)
  rule : ∀ i s u, s.result = clearedResult → RuleEffect i s u → P s → P u

namespace BlockInvariant

variable {P : State → Prop} (hP : BlockInvariant P)

include hP

theorem executeWord_keeps {v : Word} {s u : State} (h : executeWord v s = .next u) (hs : P s) : P u := by
  obtain ⟨i, u, -, hu, rfl⟩ | ⟨c, rfl⟩ := executeWord_cases h
  · exact hP.done _ (hP.rule i _ u rfl hu (hP.clearResult s hs))
  · exact hP.error _ c true (hP.clearResult s hs)

theorem transact_keeps {t : Txn} {s u : State} (h : transact t s = .next u) (hs : P s) : P u := by
  cases transact_effect h with
  | read a w r => exact hP.side s _ _ _ hs
  | readError => exact hP.side _ _ _ _ (hP.error s .bus false hs)
  | writeError => exact hP.error s .bus false hs
  | ctrl v => exact hP.ctrl s v hs
  | status v => exact hP.acknowledge s v hs
  | cmd h => exact hP.executeWord_keeps h hs
  | ctx a v c => exact hP.ctx s c hs
  | byte v _ hbuf hwritable => exact hP.byte s _ _ _ hbuf hwritable hs

theorem deliver_keeps {e : HostEvent} {s u : State} (h : deliver e s = .next u) (hs : P s) : P u := by
  match e with
  | .rst true => cases h; exact hP.side .reset true _ _ hP.reset
  | .rst false => cases h; exact hP.side _ _ _ _ hs
  | .txn t =>
    unfold deliver at h
    split_ifs at h
    · cases h; exact hs
    · exact hP.transact_keeps h hs

/-- Every step keeps an invariant of the block. -/
theorem step_keeps {s u : State} (hs : P s) (h : step s = .next u) : P u := by
  unfold step at h
  split at h
  · cases h; exact hs
  · exact hP.deliver_keeps h (hP.side s _ _ _ hs)

end BlockInvariant

end Sys2Proof.Machine
end

section
/-! PROOFS. The deframer's updates (42_burst_rx.md R300 to R310): what each leaves in every buffer, and everything
that RX_BURST can answer. -/

namespace Sys2Proof.Machine

open Sys2Proof.Claims

/-! ## Bytes and canonical form under a store, in the form that the projection lemmas of a store leave -/

theorem memRead_memWriteBytes_outside {w : Nat} {b : Buf} {a : Nat} (h : inBuf b a = false) (m : Mem) (v : BitVec w) :
    memRead (memWriteBytes m (bufStart b) v (bufLen b)) a = memRead m a :=
  memRead_storeBuf_outside b v { State.reset with mem := m } a h

theorem memWf_memWriteBytes {w : Nat} {m : Mem} (h : memWf m = true) (b : Buf) (v : BitVec w) :
    memWf (memWriteBytes m (bufStart b) v (bufLen b)) = true :=
  memWf_storeBuf b v { State.reset with mem := m } h

/-! ## RXSTATE alone -/

/-- The state with another RXSTATE. -/
@[simps] def withRx (x : RxState) (s : State) : State := { s with rx := x }

/-! ## Buffers read back after a store of their own length -/

section
variable (s : State)

@[simp] theorem loadBuf_storeBuf_rxFrag (v : BitVec 128) : loadBuf 128 .rxFrag (storeBuf .rxFrag v s) = v :=
  loadBuf_storeBuf_same _ v s rfl

@[simp] theorem loadBuf_storeBuf_rxLc (v : BitVec 72) : loadBuf 72 .rxLc (storeBuf .rxLc v s) = v :=
  loadBuf_storeBuf_same _ v s rfl

@[simp] theorem loadBuf_storeBuf_voiceOut (v : BitVec 216) : loadBuf 216 .voiceOut (storeBuf .voiceOut v s) = v :=
  loadBuf_storeBuf_same _ v s rfl

@[simp] theorem loadBuf_storeBuf_dataOut (v : BitVec 256) : loadBuf 256 .dataOut (storeBuf .dataOut v s) = v :=
  loadBuf_storeBuf_same _ v s rfl

@[simp] theorem loadBuf_storeBuf_burstOut (v : BitVec 264) : loadBuf 264 .burstOut (storeBuf .burstOut v s) = v :=
  loadBuf_storeBuf_same _ v s rfl

@[simp] theorem loadBuf_storeBuf_burstIn (v : BitVec 264) : loadBuf 264 .burstIn (storeBuf .burstIn v s) = v :=
  loadBuf_storeBuf_same _ v s rfl

@[simp] theorem loadBuf_storeBuf_voiceIn (v : BitVec 216) : loadBuf 216 .voiceIn (storeBuf .voiceIn v s) = v :=
  loadBuf_storeBuf_same _ v s rfl

end

/-! ## Buffers under the deframer's updates -/

section
variable (w : Nat) (b : Buf) (s : State)

@[simp] theorem loadBuf_withRx (x : RxState) : loadBuf w b (withRx x s) = loadBuf w b s := rfl

@[simp] theorem loadBuf_noteOutcome (o : DecOutcome) : loadBuf w b (noteOutcome o s) = loadBuf w b s := rfl

@[simp] theorem loadBuf_setClass (c : BitVec 4) : loadBuf w b (setClass c s) = loadBuf w b s := rfl

@[simp] theorem loadBuf_setPl : loadBuf w b (setPl s) = loadBuf w b s := rfl

@[simp] theorem loadBuf_dropBurst : loadBuf w b (dropBurst s) = loadBuf w b s := rfl

@[simp] theorem loadBuf_setRxPos (pos : BitVec 3) : loadBuf w b (setRxPos pos s) = loadBuf w b s := rfl

@[simp] theorem loadBuf_noteEmb (v : BitVec 7) (o : DecOutcome) (pos : BitVec 3) :
    loadBuf w b (noteEmb v o pos s) = loadBuf w b s := rfl

@[simp] theorem loadBuf_countPending : loadBuf w b (countPending s) = loadBuf w b s :=
  loadBuf_of_mem_eq w b (countPending_mem s)

@[simp] theorem loadBuf_abortSf : loadBuf w b (abortSf s) = loadBuf w b s := loadBuf_of_mem_eq w b (abortSf_mem s)

@[simp] theorem loadBuf_restartReassembly (pos : BitVec 3) :
    loadBuf w b (restartReassembly pos s) = loadBuf w b (storeBuf .rxFrag 0#128 s) := rfl

@[simp] theorem loadBuf_clearOutputs :
    loadBuf w b (clearOutputs s) = loadBuf w b (storeBuf .dataOut 0#256 (storeBuf .voiceOut 0#216 s)) := rfl

@[simp] theorem loadBuf_handOverVoice (c : BitVec 4) (burst : BitVec 264) :
    loadBuf w b (handOverVoice burst c s) = loadBuf w b (storeBuf .voiceOut (voiceOf burst) s) := rfl

@[simp] theorem loadBuf_surfaceLc (l : BitVec 72) :
    loadBuf w b (surfaceLc l s) = loadBuf w b (storeBuf .rxLc l s) := rfl

end

/-! ## The parts of RX_BURST -/

/-- The state in which a burst of sync pattern k is handled: outputs cleared, RX_SYNC_ID set (R300). -/
def syncedState (k : Nat) (s : State) : State :=
  withRx { s.rx with syncId := BitVec.ofNat 3 k } (clearOutputs s)

/-- A data burst before its slot type is decoded (R302). -/
def dataStart (k : Nat) (s : State) : State := restartReassembly 7 (countPending (syncedState k s))

/-- A data burst whose slot type has decoded to v with outcome o (R302). -/
def dataDecoded (v : BitVec 8) (o : DecOutcome) (k : Nat) (s : State) : State :=
  setClass 1 (noteOutcome o (withRx { (dataStart k s).rx with cc := v.extractLsb' 4 4, dt := v.extractLsb' 0 4 }
    (dataStart k s)))

/-- A burst without a sync whose EMB has decoded to v with outcome o, its fragment taken (R306). -/
def embTaken (v : BitVec 7) (o : DecOutcome) (b : BitVec 264) (s : State) : State :=
  takeFragment b (nextRxPos s.rx.pos) (noteEmb v o (nextRxPos s.rx.pos) (clearOutputs s))

theorem rxSynced_voice {k : Nat} (h : k % 2 = 0) (b : BitVec 264) (s : State) :
    rxSynced k b (clearOutputs s) = rxVoiceSync b (syncedState k s) := by
  have hk : ¬ k % 2 = 1 := by omega
  unfold rxSynced
  rw [if_neg hk]
  rfl

theorem rxSynced_data {k : Nat} (h : k % 2 = 1) (b : BitVec 264) (s : State) :
    rxSynced k b (clearOutputs s) = rxData b (syncedState k s) := by
  unfold rxSynced
  rw [if_pos h]
  rfl

theorem rxData_of_slotType_fail {b : BitVec 264} (h : (golayDecode (slotTypeOf b)).2 = .fail) (k : Nat) (s : State) :
    rxData b (syncedState k s) = dropBurst (dataStart k s) := by
  unfold rxData
  rw [h]
  rfl

theorem rxData_of_slotType_ok {b : BitVec 264} {v : BitVec 8} {o : DecOutcome}
    (h : golayDecode (slotTypeOf b) = (v, o)) (ho : o ≠ .fail) (k : Nat) (s : State) :
    rxData b (syncedState k s) =
      if v.extractLsb' 0 4 = 1 ∨ v.extractLsb' 0 4 = 2 then
        rxFullLc (infoOf b) (v.extractLsb' 0 4).toNat (dataDecoded v o k s)
      else setPl (writeDataOut (infoOf b) (dataDecoded v o k s)) := by
  unfold rxData
  rw [h]
  cases o with
  | fail => exact absurd rfl ho
  | ok => rfl
  | corrected n => rfl

theorem rxFullLc_of_fail {info : BitVec 196} (h : (bptcDecode info).2 = .fail) (dt : Nat) (s : State) :
    rxFullLc info dt s = dropBurst s := by
  unfold rxFullLc
  rw [h]

theorem rxFullLc_of_decodes {info : BitVec 196} {f : BitVec 96} {o : DecOutcome} (h : bptcDecode info = (f, o))
    (ho : o ≠ .fail) (dt : Nat) (s : State) :
    rxFullLc info dt s =
      if rsCheck f dt then surfaceLc (bits f 0 72) (noteOutcome o s) else dropBurst (noteOutcome o s) := by
  unfold rxFullLc
  rw [h]
  cases o with
  | fail => exact absurd rfl ho
  | ok => rfl
  | corrected n => rfl

theorem rxEmbedded_of_fail {b : BitVec 264} (h : (qrDecode (embOf b)).2 = .fail) (s : State) :
    rxEmbedded b s = rxEmbFail (nextRxPos s.rx.pos) s := by
  unfold rxEmbedded
  rw [h]

theorem rxEmbedded_of_decodes {b : BitVec 264} {v : BitVec 7} {o : DecOutcome} (h : qrDecode (embOf b) = (v, o))
    (ho : o ≠ .fail) (s : State) :
    rxEmbedded b (clearOutputs s) = finishEmbedded b (nextRxPos s.rx.pos) (embTaken v o b s) := by
  unfold rxEmbedded embTaken
  rw [h, clearOutputs_rx]
  cases o with
  | fail => exact absurd rfl ho
  | ok => rfl
  | corrected n => rfl

theorem assembleLc_of_fail {s : State} (h : (embDecode (loadBuf 128 .rxFrag s)).2 = .fail) : assembleLc s = none := by
  unfold assembleLc
  rw [h]

theorem assembleLc_of_decodes {s : State} {l : BitVec 72} {o : DecOutcome}
    (h : embDecode (loadBuf 128 .rxFrag s) = (l, o)) (ho : o ≠ .fail) :
    assembleLc s = some (surfaceLc l (noteOutcome o s)) := by
  unfold assembleLc
  rw [h]
  cases o with
  | fail => exact absurd rfl ho
  | ok => rfl
  | corrected n => rfl

/-! ## Everything that RX_BURST can answer -/

/-- `RxEffect s u`: RX_BURST may take s to u. Which burst was received is left open. -/
inductive RxEffect (s : State) : State → Prop
  /-- R304 -/
  | voiceSync (b k) : RxEffect s (rxVoiceSync b (syncedState k s))
  /-- R302: the slot type does not decode. -/
  | slotTypeFails (k) : RxEffect s (dropBurst (dataStart k s))
  /-- R302: the information bits as received. -/
  | rawData (info : BitVec 196) (v o k) : RxEffect s (setPl (writeDataOut info (dataDecoded v o k s)))
  /-- R303 -/
  | fullLc (l o' v o k) : RxEffect s (surfaceLc l (noteOutcome o' (dataDecoded v o k s)))
  /-- R303: the product code or the parity fails. -/
  | fullLcFails (o' v o k) : RxEffect s (dropBurst (noteOutcome o' (dataDecoded v o k s)))
  /-- R306: the EMB does not decode. -/
  | embFails : RxEffect s (rxEmbFail (nextRxPos s.rx.pos) (clearOutputs s))
  /-- R306 -/
  | embedded (v o b) : RxEffect s (handOverVoice b 3 (embTaken v o b s))
  /-- R309 -/
  | embeddedLc (l o' v o b) : RxEffect s (handOverVoice b 3 (surfaceLc l (noteOutcome o' (embTaken v o b s))))
  /-- R309: the fragments do not decode. -/
  | embeddedLcFails (v o b) : RxEffect s (dropBurst (embTaken v o b s))

theorem noteOutcome_ok (s : State) : noteOutcome .ok s = s := rfl

theorem rxData_effect (b : BitVec 264) (k : Nat) (s : State) : RxEffect s (rxData b (syncedState k s)) := by
  rcases hslot : golayDecode (slotTypeOf b) with ⟨v, o⟩
  by_cases ho : o = .fail
  · rw [rxData_of_slotType_fail (by rw [hslot, ho])]
    exact .slotTypeFails k
  rw [rxData_of_slotType_ok hslot ho]
  split_ifs
  · rcases hinfo : bptcDecode (infoOf b) with ⟨f, o'⟩
    by_cases ho' : o' = .fail
    · rw [rxFullLc_of_fail (by rw [hinfo, ho']), ← noteOutcome_ok (dataDecoded v o k s)]
      exact .fullLcFails .ok v o k
    rw [rxFullLc_of_decodes hinfo ho']
    split_ifs
    · exact .fullLc _ o' v o k
    · exact .fullLcFails o' v o k
  · exact .rawData _ v o k

theorem rxEmbedded_effect (b : BitVec 264) (s : State) : RxEffect s (rxEmbedded b (clearOutputs s)) := by
  rcases hemb : qrDecode (embOf b) with ⟨v, o⟩
  by_cases ho : o = .fail
  · rw [rxEmbedded_of_fail (by rw [hemb, ho]), clearOutputs_rx]
    exact .embFails
  rw [rxEmbedded_of_decodes hemb ho]
  unfold finishEmbedded
  split_ifs
  · rcases hlc : embDecode (loadBuf 128 .rxFrag (embTaken v o b s)) with ⟨l, o'⟩
    by_cases ho' : o' = .fail
    · rw [assembleLc_of_fail (by rw [hlc, ho'])]
      exact .embeddedLcFails v o b
    · rw [assembleLc_of_decodes hlc ho']
      exact .embeddedLc l o' v o b
  · exact .embedded v o b

theorem rxBurst_eq (s : State) : rxBurst s =
    if (syncMatch (centerOf (received s))).2 ≤ s.ctrl.syncTol.toNat then
      rxSynced (syncMatch (centerOf (received s))).1 (received s) (clearOutputs s)
    else rxEmbedded (received s) (clearOutputs s) := rfl

theorem rxBurst_effect (s : State) : RxEffect s (rxBurst s) := by
  rw [rxBurst_eq]
  split_ifs
  · rcases Nat.mod_two_eq_zero_or_one (syncMatch (centerOf (received s))).1 with hk | hk
    · rw [rxSynced_voice hk]
      exact .voiceSync (received s) _
    · rw [rxSynced_data hk]
      exact rxData_effect (received s) _ s
  · exact rxEmbedded_effect (received s) s

/-! ## Taking a fragment -/

/-- The fragment of the burst stored at position p (R308). -/
def fragmentStored (b : BitVec 264) (p : Nat) (s : State) : State :=
  storeBuf .rxFrag (setBits (loadBuf 128 .rxFrag s) (32 * (p - 1)) (embDataOf b))
    (withRx { s.rx with fragMask := s.rx.fragMask ||| BitVec.twoPow 4 (p - 1) } s)

theorem takeFragment_eq (b : BitVec 264) (new : BitVec 3) (s : State) :
    takeFragment b new s =
      if isFragmentPos new && !s.rx.abort then
        if s.rx.lcss = lcssOf new.toNat then fragmentStored b new.toNat s else abortSf s
      else s := rfl

/-- Nothing is taken, the fragment is stored, or the superframe is abandoned. -/
theorem takeFragment_cases (b : BitVec 264) (new : BitVec 3) (s : State) :
    takeFragment b new s = s ∨
      (isFragmentPos new = true ∧ takeFragment b new s = fragmentStored b new.toNat s) ∨
      takeFragment b new s = abortSf s := by
  rw [takeFragment_eq]
  split_ifs with hpos hlcss
  · exact .inr (.inl ⟨(Bool.and_eq_true_iff.mp hpos).1, rfl⟩)
  · exact .inr (.inr rfl)
  · exact .inl rfl

end Sys2Proof.Machine
end

section
/-! PROOFS. The invariants of the block (10_state.md sections 2 to 5): which buffers a command stores to, and what its
rule and RX_BURST do to the fields that the invariants speak of. -/

namespace Sys2Proof.Machine

open Sys2Proof.Claims

/-! ## Stores to listed buffers -/

/-- The second memory is the first one after stores of whole buffers, all of them listed. -/
inductive StoredOnly (bufs : List Buf) (m : Mem) : Mem → Prop
  | refl : StoredOnly bufs m m
  | store {w m' b} (hb : b ∈ bufs) (v : BitVec w) (h : StoredOnly bufs m m') :
      StoredOnly bufs m (memWriteBytes m' (bufStart b) v (bufLen b))

namespace StoredOnly

variable {bufs : List Buf} {m m' m'' : Mem}

theorem trans (h : StoredOnly bufs m m') (h' : StoredOnly bufs m' m'') : StoredOnly bufs m m'' := by
  induction h' with
  | refl => exact h
  | store hb v _ ih => exact .store hb v ih

theorem mono {bufs' : List Buf} (hsub : bufs ⊆ bufs') (h : StoredOnly bufs m m') : StoredOnly bufs' m m' := by
  induction h with
  | refl => exact .refl
  | store hb v _ ih => exact .store (hsub hb) v ih

theorem memWf (h : StoredOnly bufs m m') (hm : memWf m = true) : memWf m' = true := by
  induction h with
  | refl => exact hm
  | store _ v _ ih => exact memWf_memWriteBytes ih _ v

theorem memRead_outside (h : StoredOnly bufs m m') {a : Nat} (ha : ∀ b ∈ bufs, inBuf b a = false) :
    memRead m' a = memRead m a := by
  induction h with
  | refl => rfl
  | store hb v _ ih => rw [memRead_memWriteBytes_outside (ha _ hb), ih]

theorem loadBuf_other {s t : State} (h : StoredOnly bufs s.mem t.mem) (w : Nat) {b : Buf} (hb : b ∉ bufs) :
    loadBuf w b t = loadBuf w b s :=
  loadBuf_congr w b t s fun _ ha => h.memRead_outside fun c hc => by
    by_contra hin
    exact hb (inBuf_unique c b _ (by simpa using hin) ha ▸ hc)

end StoredOnly

/-- The buffers that RX_BURST stores to (42_burst_rx.md R300 to R309). -/
abbrev rxBufs : List Buf := [.voiceOut, .dataOut, .rxFrag, .rxLc]

/-- The buffers that the block stores to (10_state.md R64). -/
abbrev blockBufs : List Buf := [.voiceOut, .dataOut, .rxFrag, .rxLc, .burstOut, .lcAct, .embTx]

theorem clearOutputs_stored (s : State) : StoredOnly [.voiceOut, .dataOut] s.mem (clearOutputs s).mem := by
  simp only [clearOutputs_mem, storeBuf_mem]
  exact .store (by decide) _ (.store (by decide) _ .refl)

theorem dataStart_stored (k : Nat) (s : State) :
    StoredOnly [.voiceOut, .dataOut, .rxFrag] s.mem (dataStart k s).mem := by
  simp only [dataStart, restartReassembly_mem, storeBuf_mem, countPending_mem, syncedState, withRx_mem]
  exact .store (by decide) _ ((clearOutputs_stored s).mono (by decide))

/-- A burst without a sync at most takes a fragment. -/
theorem embTaken_stored (v : BitVec 7) (o : DecOutcome) (b : BitVec 264) (s : State) :
    StoredOnly [.voiceOut, .dataOut, .rxFrag] s.mem (embTaken v o b s).mem := by
  have hclear := (clearOutputs_stored s).mono (bufs' := [.voiceOut, .dataOut, .rxFrag]) (by decide)
  unfold embTaken
  obtain h | ⟨-, h⟩ | h := takeFragment_cases b (nextRxPos s.rx.pos) (noteEmb v o (nextRxPos s.rx.pos) (clearOutputs s))
  · rw [h, noteEmb_mem]
    exact hclear
  · rw [h, fragmentStored, storeBuf_mem, withRx_mem, noteEmb_mem]
    exact .store (by decide) _ hclear
  · rw [h, abortSf_mem, noteEmb_mem]
    exact hclear

theorem rxEmbFail_stored (new : BitVec 3) (s : State) :
    StoredOnly [.voiceOut, .dataOut] s.mem (rxEmbFail new (clearOutputs s)).mem := by
  unfold rxEmbFail
  split_ifs <;> simp only [abortSf_mem, setRxPos_mem, dropBurst_mem] <;> exact clearOutputs_stored s

/-! ## The fields of the state after a burst -/

@[simp] theorem recordOutcome_lc (o : DecOutcome) (r : Result) : (recordOutcome o r).lc = r.lc := by cases o <;> rfl

@[simp] theorem recordOutcome_pl (o : DecOutcome) (r : Result) : (recordOutcome o r).pl = r.pl := by cases o <;> rfl

@[simp] theorem recordOutcome_rxClass (o : DecOutcome) (r : Result) : (recordOutcome o r).rxClass = r.rxClass := by
  cases o <;> rfl

/-- What a burst without a sync does to every field but the memory, before its payload is handed over. -/
theorem embTaken_fields (v : BitVec 7) (o : DecOutcome) (b : BitVec 264) (s : State) :
    HostSideSame s (embTaken v o b s) ∧ TxSame s (embTaken v o b s) ∧ (embTaken v o b s).status = s.status ∧
      (embTaken v o b s).result = recordOutcome o s.result ∧ (embTaken v o b s).fecFailCnt = s.fecFailCnt ∧
      ((embTaken v o b s).abortCnt = s.abortCnt ∨ (embTaken v o b s).abortCnt = s.abortCnt + 1) ∧
      (embTaken v o b s).rx.pos = nextRxPos s.rx.pos := by
  unfold embTaken
  obtain h | ⟨-, h⟩ | h := takeFragment_cases b (nextRxPos s.rx.pos) (noteEmb v o (nextRxPos s.rx.pos) (clearOutputs s))
  · simp [HostSideSame, TxSame, h]
  · simp [HostSideSame, TxSame, h, fragmentStored]
  · cases ha : s.rx.abort <;> simp [HostSideSame, TxSame, h, ha]

/-- The same of a burst whose EMB does not decode (R306). -/
theorem rxEmbFail_fields (s : State) (new : BitVec 3) :
    HostSideSame s (rxEmbFail new (clearOutputs s)) ∧ TxSame s (rxEmbFail new (clearOutputs s)) ∧
      (rxEmbFail new (clearOutputs s)).status = s.status ∧
      (rxEmbFail new (clearOutputs s)).result = { s.result with uncorr := true, rxClass := 4 } ∧
      (rxEmbFail new (clearOutputs s)).fecFailCnt = s.fecFailCnt + 1 ∧
      ((rxEmbFail new (clearOutputs s)).abortCnt = s.abortCnt ∨
        (rxEmbFail new (clearOutputs s)).abortCnt = s.abortCnt + 1) ∧
      (rxEmbFail new (clearOutputs s)).rx.pos = new := by
  unfold rxEmbFail
  split_ifs
  · cases ha : s.rx.abort <;> simp [HostSideSame, TxSame, ha]
  · simp [HostSideSame, TxSame]

theorem RxEffect.frame {s u : State} (h : RxEffect s u) : HostSideSame s u ∧ TxSame s u := by
  cases h with
  | embFails => exact ⟨(rxEmbFail_fields s _).1, (rxEmbFail_fields s _).2.1⟩
  | voiceSync => simp [HostSideSame, TxSame, rxVoiceSync, syncedState]
  | slotTypeFails | rawData | fullLc | fullLcFails =>
    simp [HostSideSame, TxSame, dataDecoded, dataStart, syncedState]
  | embedded v o b | embeddedLc _ _ v o b | embeddedLcFails v o b =>
    obtain ⟨hhost, htx, -⟩ := embTaken_fields v o b s
    simp [HostSideSame, TxSame, hhost, htx]

/-- RESULT.LC stands for an LC stored with its event (R303, R309). -/
theorem RxEffect.stored_cases {s u : State} (h : RxEffect s u) :
    (u.result.lc = s.result.lc ∧ u.status = s.status ∧ StoredOnly [.voiceOut, .dataOut, .rxFrag] s.mem u.mem) ∨
      (u.result.lc = true ∧ u.status = { s.status with lcEv := true } ∧ StoredOnly rxBufs s.mem u.mem) := by
  have hclear {bufs : List Buf} (hsub : [.voiceOut, .dataOut] ⊆ bufs) := (clearOutputs_stored s).mono hsub
  have hdata (k : Nat) {bufs : List Buf} (hsub : [.voiceOut, .dataOut, .rxFrag] ⊆ bufs) :=
    (dataStart_stored k s).mono hsub
  cases h with
  | voiceSync b k =>
    refine .inl ⟨by simp [rxVoiceSync, syncedState], by simp [rxVoiceSync, syncedState], ?_⟩
    simp only [rxVoiceSync, handOverVoice_mem, storeBuf_mem, restartReassembly_mem, countPending_mem, syncedState,
      withRx_mem]
    exact .store (by decide) _ (.store (by decide) _ (hclear (by decide)))
  | slotTypeFails k =>
    refine .inl ⟨by simp [dataStart, syncedState], by simp [dataStart, syncedState], ?_⟩
    simpa only [dropBurst_mem] using dataStart_stored k s
  | rawData info v o k =>
    refine .inl ⟨by simp [dataDecoded, dataStart, syncedState], by simp [dataDecoded, dataStart, syncedState], ?_⟩
    simp only [setPl_mem, writeDataOut_mem, storeBuf_mem, dataDecoded, setClass_mem, noteOutcome_mem, withRx_mem]
    exact .store (by decide) _ (dataStart_stored k s)
  | fullLc l o' v o k =>
    refine .inr ⟨by simp, by simp [dataDecoded, dataStart, syncedState], ?_⟩
    simp only [surfaceLc_mem, storeBuf_mem, dataDecoded, setClass_mem, noteOutcome_mem, withRx_mem]
    exact .store (by decide) _ (hdata k (by decide))
  | fullLcFails o' v o k =>
    refine .inl ⟨by simp [dataDecoded, dataStart, syncedState], by simp [dataDecoded, dataStart, syncedState], ?_⟩
    simpa only [dropBurst_mem, dataDecoded, setClass_mem, noteOutcome_mem, withRx_mem] using dataStart_stored k s
  | embFails =>
    obtain ⟨-, -, hstatus, hresult, -⟩ := rxEmbFail_fields s (nextRxPos s.rx.pos)
    exact .inl ⟨by rw [hresult], hstatus, (rxEmbFail_stored _ s).mono (by decide)⟩
  | embedded v o b =>
    obtain ⟨-, -, hstatus, hresult, -⟩ := embTaken_fields v o b s
    refine .inl ⟨by simp [hresult], by simp [hstatus], ?_⟩
    simp only [handOverVoice_mem, storeBuf_mem]
    exact .store (by decide) _ (embTaken_stored v o b s)
  | embeddedLc l o' v o b =>
    refine .inr ⟨by simp, by simp [embTaken_fields v o b s], ?_⟩
    simp only [handOverVoice_mem, surfaceLc_mem, storeBuf_mem, noteOutcome_mem]
    exact .store (by decide) _ (.store (by decide) _ ((embTaken_stored v o b s).mono (by decide)))
  | embeddedLcFails v o b =>
    obtain ⟨-, -, hstatus, hresult, -⟩ := embTaken_fields v o b s
    refine .inl ⟨by simp [hresult], by simp [hstatus], ?_⟩
    simpa only [dropBurst_mem] using embTaken_stored v o b s

theorem RxEffect.stored {s u : State} (h : RxEffect s u) : StoredOnly rxBufs s.mem u.mem := by
  obtain ⟨-, -, hmem⟩ | ⟨-, -, hmem⟩ := h.stored_cases
  · exact hmem.mono (by decide)
  · exact hmem

/-- FEC_FAIL_CNT counts the bursts of class DROPPED (R305). -/
theorem RxEffect.dropped_cases {s u : State} (h : RxEffect s u) :
    (u.result.rxClass = 4 ∧ u.fecFailCnt = s.fecFailCnt + 1) ∨
      (u.result.rxClass.toNat ≤ 3 ∧ u.fecFailCnt = s.fecFailCnt) := by
  cases h with
  | embFails => exact .inl (by simp [rxEmbFail_fields s])
  | slotTypeFails | fullLcFails => exact .inl (by simp [dataDecoded, dataStart, syncedState])
  | embeddedLcFails v o b => exact .inl (by simp [embTaken_fields v o b s])
  | rawData | fullLc => exact .inr (by simp [dataDecoded, dataStart, syncedState])
  | voiceSync => exact .inr (by simp [rxVoiceSync, syncedState])
  | embedded v o b | embeddedLc _ _ v o b => exact .inr (by simp [embTaken_fields v o b s])

/-- A superframe is abandoned at most once in a burst (R307). -/
theorem RxEffect.abortCnt_cases {s u : State} (h : RxEffect s u) :
    u.abortCnt = s.abortCnt ∨ u.abortCnt = s.abortCnt + 1 := by
  cases h with
  | embFails => exact (rxEmbFail_fields s _).2.2.2.2.2.1
  | embedded v o b | embeddedLc _ _ v o b | embeddedLcFails v o b =>
    obtain ⟨-, -, -, -, -, habort, -⟩ := embTaken_fields v o b s
    simpa using habort
  | voiceSync | slotTypeFails | rawData | fullLc | fullLcFails =>
    simp only [rxVoiceSync, dataDecoded, dataStart, syncedState, dropBurst_abortCnt,
      handOverVoice_abortCnt, setPl_abortCnt, writeDataOut_abortCnt, surfaceLc_abortCnt, noteOutcome_abortCnt,
      setClass_abortCnt, withRx_abortCnt, restartReassembly_abortCnt, countPending_abortCnt, clearOutputs_abortCnt]
    split_ifs <;> simp

theorem RxEffect.pos_cases {s u : State} (h : RxEffect s u) :
    u.rx.pos = 7 ∨ u.rx.pos = 0 ∨ u.rx.pos = nextRxPos s.rx.pos := by
  cases h with
  | voiceSync => exact .inr (.inl (by simp [rxVoiceSync]))
  | slotTypeFails | rawData | fullLc | fullLcFails => exact .inl (by simp [dataDecoded, dataStart])
  | embFails => exact .inr (.inr (by simp [rxEmbFail_fields s]))
  | embedded v o b | embeddedLc _ _ v o b | embeddedLcFails v o b =>
    exact .inr (.inr (by simp [embTaken_fields v o b s]))

theorem latch_mem (s : State) : (latch s).mem =
    memWriteBytes (memWriteBytes s.mem (bufStart .lcAct) (buildLc s.ctx) (bufLen .lcAct)) (bufStart .embTx)
      (embEncode (buildLc s.ctx)) (bufLen .embTx) := rfl

/-- The buffers that the other rules store to. -/
abbrev commandBufs : List Buf := [.dataOut, .burstOut, .lcAct, .embTx, .rxFrag]

theorem RuleEffect.stored_of_not_rxBurst {i : Instr} {s u : State} (h : RuleEffect i s u) (hi : i ≠ .softReset)
    (hrx : i ≠ .rxBurst) : StoredOnly commandBufs s.mem u.mem := by
  cases h with
  | softReset => exact absurd rfl hi
  | rxBurst => exact absurd rfl hrx
  | nop | clrCnt => exact .refl
  | callStart =>
    simp only [latch_mem]
    exact .store (by decide) _ (.store (by decide) _ .refl)
  | voiceAtA =>
    simp only [sendVoice_mem, storeBuf_mem, latch_mem]
    exact .store (by decide) _ (.store (by decide) _ (.store (by decide) _ .refl))
  | dataOut | voice | burstOut | txTerm | rxReset =>
    simp only [writeDataOut_mem, sendVoice_mem, restartReassembly_mem, storeBuf_mem]
    exact .store (by decide) _ .refl

theorem RuleEffect.rxEffect {s u : State} (h : RuleEffect .rxBurst s u) : RxEffect s u := by
  cases h with
  | rxBurst => exact rxBurst_effect s
  | dataOut hi | burstOut hi => simp at hi

/-- Only SOFT_RESET touches a buffer that the host writes. -/
theorem RuleEffect.stored {i : Instr} {s u : State} (h : RuleEffect i s u) (hi : i ≠ .softReset) :
    StoredOnly blockBufs s.mem u.mem := by
  by_cases hrx : i = .rxBurst
  · subst hrx
    exact h.rxEffect.stored.mono (by decide)
  · exact (h.stored_of_not_rxBurst hi hrx).mono (by decide)

/-! ## The canonical form of the buffer memory -/

theorem memWf_ruleEffect {i : Instr} {s u : State} (h : RuleEffect i s u) (hs : memWf s.mem = true) :
    memWf u.mem = true := by
  by_cases hi : i = .softReset
  · subst hi
    cases h with
    | softReset => rfl
    | dataOut hi | burstOut hi => simp at hi
  · exact (h.stored hi).memWf hs

theorem memWf_blockInvariant : BlockInvariant fun s => memWf s.mem = true where
  side _ _ _ _ h := h
  reset := rfl
  ctrl _ _ h := h
  acknowledge _ _ h := h
  ctx _ _ h := h
  byte s a b v hbuf _ h := memWf_memWrite s.mem a v (by rw [hbuf]; rfl) h
  clearResult _ h := h
  error _ _ _ h := h
  done _ h := h
  rule _ _ _ _ hu h := memWf_ruleEffect hu h

end Sys2Proof.Machine
end

section
/-! PROOFS. The four invariants of the block, at reset and over every step (10_state.md sections 2 to 5, 7). -/

namespace Sys2Proof.Machine

open Sys2Proof.Claims

/-! ## The register fields and the call state -/

theorem errCodeValue_legal (c : ErrCode) : (errCodeValue c).toNat ≤ 4 ∧ errCodeValue c ≠ 0 := by
  cases c <;> decide

theorem writeSyncTol_le (v : BitVec 3) : (writeSyncTol v).toNat ≤ 4 := by
  rw [writeSyncTol_toNat]
  exact Nat.min_le_right _ _

/-- From a position that is held, the next one is F at the latest or UNSYNC, never 6 (R306). -/
theorem nextRxPos_ne_six (pos : BitVec 3) : nextRxPos pos ≠ 6 := by
  revert pos
  decide

theorem RxEffect.legal {s u : State} (h : RxEffect s u) (hs : LegalFields s ∧ LegalCall s) :
    LegalFields u ∧ LegalCall u := by
  obtain ⟨⟨htol, hcode, herr, -, hpos, -⟩, hcall⟩ := hs
  obtain ⟨⟨hctrl, -⟩, hact, htx⟩ := h.frame
  have hstatus : u.status.errCode = s.status.errCode ∧ u.status.err = s.status.err := by
    obtain ⟨-, h, -⟩ | ⟨-, h, -⟩ := h.stored_cases <;> simp [h]
  have hclass : u.result.rxClass.toNat ≤ 4 := by
    obtain ⟨h, -⟩ | ⟨h, -⟩ := h.dropped_cases
    · simp [h]
    · omega
  have hrx : u.rx.pos ≠ 6 := by
    obtain h | h | h := h.pos_cases <;> rw [h]
    · decide
    · decide
    · exact nextRxPos_ne_six _
  simp only [LegalFields, LegalCall, hctrl, hact, htx, hstatus]
  exact ⟨⟨htol, hcode, herr, hclass, hpos, hrx⟩, hcall⟩

theorem legal_reset : LegalFields State.reset ∧ LegalCall State.reset := by decide

theorem legal_ruleEffect {i : Instr} {s u : State} (h : RuleEffect i s u) (hs : LegalFields s ∧ LegalCall s) :
    LegalFields u ∧ LegalCall u := by
  obtain ⟨⟨htol, hcode, herr, hclass, hpos, hrx⟩, hA, hvalid⟩ := id hs
  cases h with
  | nop | clrCnt | burstOut => exact hs
  | softReset => exact legal_reset
  | dataOut _ _ o => simp_all [LegalFields, LegalCall]
  | callStart _ hctx => simp_all [LegalFields, LegalCall]
  | voiceAtA _ hactive hpos hctx => simp_all [LegalFields, LegalCall]
  | voice => simp_all [LegalFields, LegalCall]; omega
  | txTerm => simp_all [LegalFields, LegalCall]
  | rxBurst => exact (rxBurst_effect s).legal hs
  | rxReset => simp_all [LegalFields, LegalCall]

theorem legal_blockInvariant : BlockInvariant fun s => LegalFields s ∧ LegalCall s where
  side _ _ _ _ h := h
  reset := legal_reset
  ctrl s v h := ⟨⟨writeSyncTol_le _, h.1.2⟩, h.2⟩
  acknowledge s v h := by
    obtain ⟨⟨htol, hcode, herr, hrest⟩, hcall⟩ := h
    refine ⟨⟨htol, ?_, ?_, hrest⟩, hcall⟩ <;> cases hv : v.getLsbD 1 <;> simp_all [acknowledge]
  ctx _ _ h := h
  byte _ _ _ _ _ _ h := h
  clearResult _ h := ⟨⟨h.1.1, h.1.2.1, h.1.2.2.1, Nat.zero_le 4, h.1.2.2.2.2⟩, h.2⟩
  error s c d h := by
    obtain ⟨⟨htol, hcode, herr, hrest⟩, hcall⟩ := h
    obtain ⟨hle, hne⟩ := errCodeValue_legal c
    refine ⟨⟨htol, ?_, ?_, hrest⟩, hcall⟩ <;> cases he : s.status.err <;> simp_all
  done _ h := h
  rule _ _ _ _ hu h := legal_ruleEffect hu h

/-! ## LC_ACT and EMB_TX -/

theorem latchFits_of_eq {s t : State} (hact : t.act = s.act) (hlc : loadBuf 72 .lcAct t = loadBuf 72 .lcAct s)
    (hemb : loadBuf 128 .embTx t = loadBuf 128 .embTx s) (hs : LatchFits s) : LatchFits t := by
  rwa [LatchFits, hact, hlc, hemb]

theorem loadBuf_latch_lcAct (s : State) : loadBuf 72 .lcAct (latch s) = buildLc s.ctx := by
  rw [latch, loadBuf_storeBuf_other _ _ _ _ _ (by decide), loadBuf_storeBuf_same _ _ _ (by decide)]

theorem loadBuf_latch_embTx (s : State) : loadBuf 128 .embTx (latch s) = embEncode (buildLc s.ctx) := by
  rw [latch, loadBuf_storeBuf_same _ _ _ (by decide)]

theorem latchFits_latch (s : State) : LatchFits (latch s) := ⟨loadBuf_latch_lcAct s, loadBuf_latch_embTx s⟩

theorem latchFits_storeBuf {w : Nat} {b : Buf} (hlc : b ≠ .lcAct) (hemb : b ≠ .embTx) (v : BitVec w) {s : State}
    (hs : LatchFits s) : LatchFits (storeBuf b v s) :=
  latchFits_of_eq (s := s) (t := storeBuf b v s) rfl (loadBuf_storeBuf_other _ _ _ _ _ hlc.symm)
    (loadBuf_storeBuf_other _ _ _ _ _ hemb.symm) hs

theorem latchFits_reset : LatchFits State.reset := by decide +kernel

/-- The records of the active context are stored to by a latch only. -/
theorem latchFits_ruleEffect {i : Instr} {s u : State} (h : RuleEffect i s u) (hs : LatchFits s) : LatchFits u := by
  cases h with
  | nop | clrCnt => exact hs
  | softReset => exact latchFits_reset
  | dataOut _ v => exact latchFits_storeBuf (by decide) (by decide) (padTo 256 v) hs
  | callStart => exact latchFits_latch s
  | voiceAtA => exact latchFits_storeBuf (by decide) (by decide) _ (latchFits_latch s)
  | voice | burstOut | txTerm => exact latchFits_storeBuf (by decide) (by decide) _ hs
  | rxReset => exact latchFits_storeBuf (by decide) (by decide) _ hs
  | rxBurst =>
    have hu := rxBurst_effect s
    obtain ⟨-, hact, -⟩ := hu.frame
    exact latchFits_of_eq hact (hu.stored.loadBuf_other 72 (by decide)) (hu.stored.loadBuf_other 128 (by decide)) hs

/-- A host's byte reaches none of the buffers that the host may only read. -/
theorem loadBuf_memWrite_other (w : Nat) {b c : Buf} {a : Nat} (hbuf : bufAt a = some c) (hbc : b ≠ c) (v : Byte)
    (s : State) : loadBuf w b { s with mem := memWrite s.mem a v } = loadBuf w b s :=
  loadBuf_congr w b _ _ fun x hx => memRead_memWrite_other s.mem a v x <| by
    rintro rfl
    exact hbc (inBuf_unique b c x hx ((bufAt_eq_some x c).mp hbuf))

theorem latchFits_blockInvariant : BlockInvariant LatchFits where
  side _ _ _ _ h := h
  reset := latchFits_reset
  ctrl _ _ h := h
  acknowledge _ _ h := h
  ctx _ _ h := h
  byte s a b v hbuf hwritable h :=
    latchFits_of_eq (s := s) (t := { s with mem := memWrite s.mem a v }) rfl
      (loadBuf_memWrite_other _ hbuf (by rintro rfl; cases hwritable) v s)
      (loadBuf_memWrite_other _ hbuf (by rintro rfl; cases hwritable) v s) h
  clearResult _ h := h
  error _ _ _ h := h
  done _ h := h
  rule _ _ _ _ hu h := latchFits_ruleEffect hu h

/-! ## RX_FRAG, FRAGMASK and RX_POS -/

/-- A burst that keeps the fragments and does not step back keeps them fitting. -/
theorem fragmentsFit_of_eq {s t : State} (hmask : t.rx.fragMask = s.rx.fragMask)
    (hpos : s.rx.pos.toNat ≤ t.rx.pos.toNat) (hfrag : loadBuf 128 .rxFrag t = loadBuf 128 .rxFrag s)
    (hs : FragmentsFit s) : FragmentsFit t := by
  intro k hk
  obtain ⟨hzero, hreached⟩ := hs k hk
  rw [hmask, hfrag]
  exact ⟨hzero, fun h => (hreached h).trans hpos⟩

theorem fragmentsFit_of_none {s : State} (hmask : s.rx.fragMask = 0) (hfrag : loadBuf 128 .rxFrag s = 0) :
    FragmentsFit s := by
  intro k hk
  rw [hmask, hfrag]
  refine ⟨fun _ => eq_of_getMsbD fun i _ => ?_, fun h => by simp at h⟩
  rw [getMsbD_bits _ _ _ _ (by omega)]
  simp

theorem loadBuf_restart_rxFrag (pos : BitVec 3) (s : State) : loadBuf 128 .rxFrag (restartReassembly pos s) = 0 := by
  rw [loadBuf_restartReassembly, loadBuf_storeBuf_same _ _ _ (by decide)]
  rfl

theorem fragmentsFit_restart (pos : BitVec 3) (s : State) : FragmentsFit (restartReassembly pos s) :=
  fragmentsFit_of_none rfl (loadBuf_restart_rxFrag pos s)

theorem bits_setBits_other {w n : Nat} (s : BitVec w) (v : BitVec n) {a b m : Nat} (hm : b + m ≤ w)
    (h : b + m ≤ a ∨ a + n ≤ b) : bits (setBits s a v) b m = bits s b m := by
  refine eq_of_getMsbD fun i hi => ?_
  have hlt : b + i < w := by omega
  have hout : ¬ (a ≤ b + i ∧ b + i < a + n) := by omega
  rw [getMsbD_bits _ _ _ _ hm, getMsbD_bits _ _ _ _ hm, getMsbD_setBits, if_neg hout]
  simp [hlt]

theorem loadBuf_fragmentStored (b : BitVec 264) (p : Nat) (s : State) :
    loadBuf 128 .rxFrag (fragmentStored b p s) = setBits (loadBuf 128 .rxFrag s) (32 * (p - 1)) (embDataOf b) :=
  loadBuf_storeBuf_same _ _ _ (by decide)

/-- The fragment of the current position is stored and its bit set, and no other (R308). -/
theorem fragmentsFit_fragmentStored (b : BitVec 264) {s : State} (hpos : isFragmentPos s.rx.pos = true)
    (hs : FragmentsFit s) : FragmentsFit (fragmentStored b s.rx.pos.toNat s) := by
  obtain ⟨hfirst, hlast⟩ : 1 ≤ s.rx.pos.toNat ∧ s.rx.pos.toNat ≤ 4 := by simpa [isFragmentPos] using hpos
  intro k hk
  obtain ⟨hzero, hreached⟩ := hs k hk
  have hmask : (fragmentStored b s.rx.pos.toNat s).rx.fragMask.getLsbD k =
      (s.rx.fragMask.getLsbD k || decide (s.rx.pos.toNat - 1 = k)) := by
    simp [fragmentStored, hk, eq_comm]
  rw [hmask, loadBuf_fragmentStored]
  by_cases hpk : s.rx.pos.toNat - 1 = k
  · refine ⟨by simp [hpk], fun _ => ?_⟩
    show k + 1 ≤ s.rx.pos.toNat
    omega
  · simp only [hpk, decide_false, Bool.or_false]
    refine ⟨fun h => ?_, hreached⟩
    rw [bits_setBits_other _ _ (by omega) (by omega), hzero h]

theorem le_nextRxPos (pos : BitVec 3) : pos.toNat ≤ (nextRxPos pos).toNat := by
  revert pos
  decide

theorem fragmentsFit_embTaken {s : State} (hs : FragmentsFit s) (v : BitVec 7) (o : DecOutcome) (b : BitVec 264) :
    FragmentsFit (embTaken v o b s) := by
  have hnote : FragmentsFit (noteEmb v o (nextRxPos s.rx.pos) (clearOutputs s)) :=
    fragmentsFit_of_eq (s := s) (by simp) (by simpa using le_nextRxPos _)
      (by simp [loadBuf_storeBuf_other]) hs
  unfold embTaken
  obtain h | ⟨hpos, h⟩ | h :=
    takeFragment_cases b (nextRxPos s.rx.pos) (noteEmb v o (nextRxPos s.rx.pos) (clearOutputs s)) <;>
    rw [h]
  · exact hnote
  · exact fragmentsFit_fragmentStored b hpos hnote
  · exact fragmentsFit_of_eq (by simp) (by simp) (by simp) hnote

theorem fragmentsFit_rxEmbFail {s : State} (hs : FragmentsFit s) :
    FragmentsFit (rxEmbFail (nextRxPos s.rx.pos) (clearOutputs s)) := by
  have hle := le_nextRxPos s.rx.pos
  unfold rxEmbFail
  split_ifs <;> exact fragmentsFit_of_eq (by simp) (by simpa using hle) (by simp [loadBuf_storeBuf_other]) hs

theorem RxEffect.fragmentsFit {s u : State} (h : RxEffect s u) (hs : FragmentsFit s) : FragmentsFit u := by
  cases h with
  | voiceSync b k =>
    exact fragmentsFit_of_none (by simp [rxVoiceSync]) (by simp [rxVoiceSync, loadBuf_storeBuf_other])
  | slotTypeFails k | rawData info v o k | fullLc l o' v o k | fullLcFails o' v o k =>
    exact fragmentsFit_of_none (by simp [dataDecoded, dataStart])
      (by simp [dataDecoded, dataStart, loadBuf_writeDataOut_other, loadBuf_storeBuf_other])
  | embFails => exact fragmentsFit_rxEmbFail hs
  | embedded v o b | embeddedLc l o' v o b | embeddedLcFails v o b =>
    exact fragmentsFit_of_eq (s := embTaken v o b s) (by simp) (by simp) (by simp [loadBuf_storeBuf_other])
      (fragmentsFit_embTaken hs v o b)

theorem fragmentsFit_reset : FragmentsFit State.reset := fragmentsFit_of_none rfl (by decide +kernel)

theorem fragmentsFit_of_mem_eq {s t : State} (hrx : t.rx = s.rx) (hmem : t.mem = s.mem) (hs : FragmentsFit s) :
    FragmentsFit t :=
  fragmentsFit_of_eq (by rw [hrx]) (by rw [hrx]) (loadBuf_of_mem_eq 128 .rxFrag hmem) hs

theorem fragmentsFit_storeBuf {w : Nat} {b : Buf} (hb : b ≠ .rxFrag) (v : BitVec w) {s : State}
    (hs : FragmentsFit s) : FragmentsFit (storeBuf b v s) :=
  fragmentsFit_of_eq (by simp) (by simp) (loadBuf_storeBuf_other _ _ _ _ _ hb.symm) hs

theorem fragmentsFit_latch {s : State} (hs : FragmentsFit s) : FragmentsFit (latch s) :=
  fragmentsFit_of_eq (by simp) (by simp) (by simp [latch, loadBuf_storeBuf_other]; rfl) hs

theorem fragmentsFit_sendVoice {s : State} (hs : FragmentsFit s) : FragmentsFit (sendVoice s) :=
  fragmentsFit_of_mem_eq (s := storeBuf .burstOut (voiceBurst (loadBuf 216 .voiceIn s) (voiceCenter s)) s) rfl rfl
    (fragmentsFit_storeBuf (by decide) _ hs)

theorem fragmentsFit_ruleEffect {i : Instr} {s u : State} (h : RuleEffect i s u) (hs : FragmentsFit s) :
    FragmentsFit u := by
  cases h with
  | nop | clrCnt => exact hs
  | softReset => exact fragmentsFit_reset
  | rxReset => exact fragmentsFit_restart 7 s
  | rxBurst => exact (rxBurst_effect s).fragmentsFit hs
  | dataOut _ v => exact fragmentsFit_of_mem_eq (s := writeDataOut v s) rfl rfl (fragmentsFit_storeBuf (by decide) _ hs)
  | callStart => exact fragmentsFit_of_mem_eq (s := latch s) rfl rfl (fragmentsFit_latch hs)
  | voiceAtA => exact fragmentsFit_sendVoice (fragmentsFit_latch hs)
  | voice => exact fragmentsFit_sendVoice hs
  | burstOut _ b => exact fragmentsFit_storeBuf (by decide) b hs
  | txTerm b =>
    exact fragmentsFit_of_mem_eq (s := storeBuf .burstOut b s) rfl rfl (fragmentsFit_storeBuf (by decide) b hs)

theorem fragmentsFit_blockInvariant : BlockInvariant FragmentsFit where
  side _ _ _ _ h := h
  reset := fragmentsFit_reset
  ctrl _ _ h := h
  acknowledge _ _ h := h
  ctx _ _ h := h
  byte s a b v hbuf hwritable h :=
    fragmentsFit_of_eq (s := s) (t := { s with mem := memWrite s.mem a v }) rfl le_rfl
      (loadBuf_memWrite_other _ hbuf (by rintro rfl; cases hwritable) v s) h
  clearResult _ h := h
  error _ _ _ h := h
  done _ h := h
  rule _ _ _ _ hu h := fragmentsFit_ruleEffect hu h

end Sys2Proof.Machine

namespace Sys2Proof.Claims

open Sys2Proof.Machine

/-- Settles O44: every store is to a whole buffer, and a host's byte goes to a buffer offset. -/
theorem stepKeepsMemoryCanonical : Obligations.StepKeepsMemoryCanonical :=
  fun _ _ hs h => memWf_blockInvariant.step_keeps hs h

/-- Settles O45. -/
theorem stepKeepsRegistersLegal : Obligations.StepKeepsRegistersLegal :=
  fun _ _ hs h => legal_blockInvariant.step_keeps hs h

/-- Settles O46. -/
theorem stepKeepsTheLatchedRecords : Obligations.StepKeepsTheLatchedRecords :=
  fun _ _ hs h => latchFits_blockInvariant.step_keeps hs h

/-- Settles O47. -/
theorem stepKeepsTheFragmentStore : Obligations.StepKeepsTheFragmentStore :=
  fun _ _ hs h => fragmentsFit_blockInvariant.step_keeps hs h

/-- Settles O48. -/
theorem resetMeetsTheInvariants : Obligations.ResetMeetsTheInvariants :=
  ⟨memWf_blockInvariant.reset, legal_blockInvariant.reset.1, legal_blockInvariant.reset.2,
    latchFits_blockInvariant.reset, fragmentsFit_blockInvariant.reset⟩

end Sys2Proof.Claims
end

section
/-! PROOFS. What the commands change and leave alone: the errors they raise (60_exceptions.md R501, R502), STATUS,
the active context and its records, RX_LC and the counters (10_state.md sections 2 to 4), the control commands
(40_control.md), and what a step does with each host event (20_memory.md R120, 70_reset_and_hazards.md R551). -/

namespace Sys2Proof.Machine

open Sys2Proof.Claims

/-! ## The errors of the commands -/

theorem validContext_iff (c : Context) : validContext c = true ↔ ValidContext c := by
  simp [validContext, ValidContext]

theorem ruleOf_error_of_raisedBy {i : Instr} {s : State} {code : BitVec 3} (h : raisedBy i s = some code) :
    ∃ c, ruleOf i s = .error c ∧ errCodeValue c = code := by
  cases i <;> simp only [raisedBy, reduceCtorEq] at h
  case txHdr =>
    split_ifs at h with hactive
    cases h
    exact ⟨.noCall, by simp [ruleOf, txHdrRule, hactive], rfl⟩
  case txTerm =>
    split_ifs at h with hactive
    cases h
    exact ⟨.noCall, by simp [ruleOf, txTermRule, hactive], rfl⟩
  case txVoice =>
    split_ifs at h with hactive hpos <;> cases h
    · exact ⟨.badContext, by simp [ruleOf, txVoiceRule, hactive, hpos.1, validContext_iff, hpos.2], rfl⟩
    · exact ⟨.noCall, by simp [ruleOf, txVoiceRule, hactive], rfl⟩
  case callStart =>
    split_ifs at h with hctx
    cases h
    exact ⟨.badContext, by simp [ruleOf, callStartRule, validContext_iff, hctx], rfl⟩
  case lcBuild =>
    split_ifs at h with hctx
    cases h
    exact ⟨.badContext, by simp [ruleOf, lcBuildRule, validContext_iff, hctx], rfl⟩

/-- A command with a legal word that raises no error of its row ends normally. -/
theorem ruleOf_ok_of_raisedBy_none {i : Instr} {s : State} (hwf : i.wellFormed = true) (h : raisedBy i s = none) :
    ∃ u, ruleOf i s = .ok u := by
  cases i
  case txHdr => exact ⟨_, if_pos (by simpa using h)⟩
  case txTerm => exact ⟨_, if_pos (by simpa using h)⟩
  case callStart => exact ⟨_, if_pos ((validContext_iff _).mpr (by simpa [ValidContext] using h))⟩
  case lcBuild => exact ⟨_, if_pos ((validContext_iff _).mpr (by simpa [ValidContext] using h))⟩
  case txVoice =>
    simp only [raisedBy] at h
    split_ifs at h with hactive hctx
    by_cases hpos : s.tx.pos = 0
    · have hvalid := (validContext_iff s.ctx).mpr (not_not.mp fun hnot => hctx ⟨hpos, hnot⟩)
      exact ⟨_, by simp only [ruleOf, txVoiceRule, if_pos hactive, if_pos hpos, if_pos hvalid]; rfl⟩
    · exact ⟨_, by simp only [ruleOf, txVoiceRule, if_pos hactive, if_neg hpos]; rfl⟩
  case txData dt => exact ⟨_, if_pos (by simpa [Instr.wellFormed] using hwf)⟩
  case rsEnc mask => exact ⟨_, if_pos (by simpa [Instr.wellFormed] using hwf)⟩
  case rsChk mask =>
    have hmask : mask.toNat ≤ 2 := by simpa [Instr.wellFormed] using hwf
    simp only [ruleOf, rsChkRule, if_pos hmask]
    split_ifs <;> exact ⟨_, rfl⟩
  all_goals exact ⟨_, rfl⟩

theorem executeWord_of_decode {v : Word} {i : Instr} (h : decode v = .ok i) (s : State) :
    executeWord v s = exec i s := by
  simp only [executeWord, h]

/-! ## STATUS under a rule -/

/-- A rule other than SOFT_RESET leaves STATUS alone, but that RX_BURST may raise the LC event. -/
theorem RuleEffect.status_cases {i : Instr} {s u : State} (h : RuleEffect i s u) (hi : i ≠ .softReset) :
    u.status = s.status ∨ u.status = { s.status with lcEv := true } := by
  cases h with
  | softReset => exact absurd rfl hi
  | rxBurst =>
    obtain ⟨-, h, -⟩ | ⟨-, h, -⟩ := (rxBurst_effect s).stored_cases
    · exact .inl h
    · exact .inr h
  | _ => exact .inl rfl

/-- Every bit of STATUS that was set is still set, and with ERR its first ERRCODE. -/
def KeepsStatus (s u : State) : Prop :=
  (s.status.done = true → u.status.done = true) ∧ (s.status.lcEv = true → u.status.lcEv = true) ∧
    (s.status.err = true → u.status.err = true ∧ u.status.errCode = s.status.errCode)

theorem keepsStatus_refl (s : State) : KeepsStatus s s := ⟨id, id, fun h => ⟨h, rfl⟩⟩

theorem keepsStatus_errorEntry (c : ErrCode) (d : Bool) (s : State) : KeepsStatus s (errorEntry c d s) := by
  refine ⟨fun h => ?_, id, fun h => ?_⟩ <;> simp [h]

theorem keepsStatus_executeWord {v : Word} {s u : State} (h : executeWord v s = .next u) (hv : v ≠ 0x00000001) :
    KeepsStatus s u := by
  obtain ⟨i, t, hi, ht, rfl⟩ | ⟨c, rfl⟩ := executeWord_cases h
  · have hne : i ≠ .softReset := by
      rintro rfl
      exact hv (encode_of_decode hi).2.symm
    obtain h | h := ht.status_cases hne <;> simp only [KeepsStatus, setDone_status, h] <;> simp_all
  · exact keepsStatus_errorEntry c true (clearResult s)

/-- Only a write of STATUS, and SOFT_RESET, clear a bit of STATUS. -/
theorem TxnEffect.keepsStatus {t : Txn} {s u : State} (h : TxnEffect t s u) (hstatus : ∀ v, t ≠ .write 0x008 4 v)
    (hreset : t ≠ .write 0x00C 4 0x00000001) : KeepsStatus s u := by
  cases h with
  | readError => exact keepsStatus_errorEntry .bus false s
  | writeError => exact keepsStatus_errorEntry .bus false s
  | status v => exact absurd rfl (hstatus v)
  | cmd h => exact keepsStatus_executeWord h (by rintro rfl; exact hreset rfl)
  | read | ctrl | ctx | byte => exact keepsStatus_refl s

/-! ## Steps -/

theorem step_of_inputs {s : State} {e : HostEvent} {rest : List HostEvent} (h : s.inputs = e :: rest) :
    step s = deliver e { s with inputs := rest, response := none } := by
  simp only [step, h]

theorem deliver_next (e : HostEvent) (s : State) : ∃ u, deliver e s = .next u := by
  match e with
  | .rst true => exact ⟨_, rfl⟩
  | .rst false => exact ⟨_, rfl⟩
  | .txn t =>
    unfold deliver
    split_ifs
    · exact ⟨_, rfl⟩
    · exact transact_next t s

theorem step_next (s : State) : ∃ u, step s = .next u := by
  unfold step
  split
  · exact ⟨_, rfl⟩
  · exact deliver_next _ _

theorem deliver_txn {s : State} (h : s.rst = false) (t : Txn) : deliver (.txn t) s = transact t s := by
  simp [deliver, h]

theorem deliver_txn_reset {s : State} (h : s.rst = true) (t : Txn) : deliver (.txn t) s = .next s := by
  simp [deliver, h]

theorem keepsStatus_deliver {e : HostEvent} {s u : State} (h : deliver e s = .next u) (hrst : e ≠ .rst true)
    (hstatus : ∀ v, e ≠ .txn (.write 0x008 4 v)) (hreset : e ≠ .txn (.write 0x00C 4 0x00000001)) :
    KeepsStatus s u := by
  match e with
  | .rst true => exact absurd rfl hrst
  | .rst false =>
    cases h
    exact keepsStatus_refl s
  | .txn t =>
    cases hs : s.rst with
    | true =>
      rw [deliver_txn_reset hs] at h
      cases h
      exact keepsStatus_refl s
    | false =>
      rw [deliver_txn hs] at h
      exact (transact_effect h).keepsStatus (fun v ht => hstatus v (ht ▸ rfl)) (fun ht => hreset (ht ▸ rfl))

/-- A delivered W1C write of STATUS, or none under reset. -/
theorem deliver_status_write {v : Word} {s u : State} (h : deliver (.txn (.write 0x008 4 v)) s = .next u) :
    u.status = s.status ∨ u = acknowledge v s := by
  cases hs : s.rst with
  | true =>
    rw [deliver_txn_reset hs] at h
    cases h
    exact .inl rfl
  | false =>
    rw [deliver_txn hs] at h
    have hwrite := transact_write_reg .status v s
    exact .inr (by cases h.symm.trans hwrite; rfl)

/-- A delivered event keeps a bit of STATUS that it does not clear (R505, R551, R552). -/
theorem deliver_keeps_status_bits {e : HostEvent} {s u : State} (h : deliver e s = .next u) :
    (s.status.done = true → ¬ ClearsStatusBit e 0 → u.status.done = true) ∧
      (s.status.lcEv = true → ¬ ClearsStatusBit e 2 → u.status.lcEv = true) ∧
      (s.status.err = true → ¬ ClearsStatusBit e 1 → u.status.err = true ∧ u.status.errCode = s.status.errCode) := by
  by_cases hw : ∃ v, e = .txn (.write 0x008 4 v)
  · obtain ⟨v, rfl⟩ := hw
    have hbit {k : Nat} (hk : ¬ ClearsStatusBit (.txn (.write 0x008 4 v)) k) : v.getLsbD k = false := by
      by_contra hset
      exact hk (.inr (.inl ⟨v, rfl, by simpa using hset⟩))
    obtain hu | rfl := deliver_status_write h
    · rw [hu]
      exact ⟨fun h _ => h, fun h _ => h, fun h _ => ⟨h, rfl⟩⟩
    · refine ⟨fun hs hk => ?_, fun hs hk => ?_, fun hs hk => ?_⟩ <;> simp only [acknowledge, hs, hbit hk] <;> simp
  · have hkeeps {k : Nat} (hk : ¬ ClearsStatusBit e k) : KeepsStatus s u :=
      keepsStatus_deliver h (fun he => hk (.inl he)) (fun v he => hw ⟨v, he⟩) (fun he => hk (.inr (.inr he)))
    exact ⟨fun hs hk => (hkeeps hk).1 hs, fun hs hk => (hkeeps hk).2.1 hs, fun hs hk => (hkeeps hk).2.2 hs⟩

/-! ## What only a latch, only a surfaced LC and only a burst change -/

theorem RuleEffect.keeps_active {i : Instr} {s u : State} (h : RuleEffect i s u) (hreset : i ≠ .softReset)
    (hstart : i ≠ .callStart) (hvoice : ¬ (i = .txVoice ∧ s.tx.pos = 0)) :
    u.act = s.act ∧ StoredOnly (.burstOut :: rxBufs) s.mem u.mem := by
  cases h with
  | softReset => exact absurd rfl hreset
  | callStart => exact absurd rfl hstart
  | voiceAtA _ _ hpos => exact absurd ⟨rfl, hpos⟩ hvoice
  | nop | clrCnt => exact ⟨rfl, .refl⟩
  | rxBurst => exact ⟨(rxBurst_effect s).frame.2.1, (rxBurst_effect s).stored.mono (by decide)⟩
  | dataOut | voice | burstOut | txTerm | rxReset =>
    refine ⟨rfl, ?_⟩
    simp only [writeDataOut_mem, sendVoice_mem, restartReassembly_mem, storeBuf_mem]
    exact .store (by decide) _ .refl

theorem RuleEffect.keeps_lc {i : Instr} {s u : State} (h : RuleEffect i s u) (hreset : i ≠ .softReset)
    (hrx : i ≠ .rxBurst) : u.result.lc = s.result.lc ∧ u.status = s.status := by
  cases h with
  | softReset => exact absurd rfl hreset
  | rxBurst => exact absurd rfl hrx
  | dataOut => simp
  | _ => exact ⟨rfl, rfl⟩

theorem RuleEffect.keeps_counters {i : Instr} {s u : State} (h : RuleEffect i s u) (hreset : i ≠ .softReset)
    (hclr : i ≠ .clrCnt) (hrx : i ≠ .rxBurst) : u.fecFailCnt = s.fecFailCnt ∧ u.abortCnt = s.abortCnt := by
  cases h with
  | softReset => exact absurd rfl hreset
  | clrCnt => exact absurd rfl hclr
  | rxBurst => exact absurd rfl hrx
  | _ => exact ⟨rfl, rfl⟩

theorem exec_rxBurst (s : State) : exec .rxBurst s = .next (setDone (rxBurst (clearResult s))) :=
  exec_of_rule_ok rfl

/-! ## RX_RESET -/

theorem exec_rxReset (s : State) : exec .rxReset s = .next (setDone (restartReassembly 7 (clearResult s))) :=
  exec_of_rule_ok rfl

end Sys2Proof.Machine

namespace Sys2Proof.Claims

open Sys2Proof.Machine

/-- Settles O13: only a W1C write, SOFT_RESET and the reset input clear a bit of STATUS. -/
theorem statusBitsStayUntilCleared : Obligations.StatusBitsStayUntilCleared := fun s _ _ rest hinputs hstep =>
  deliver_keeps_status_bits (s := { s with inputs := rest, response := none }) (step_of_inputs hinputs ▸ hstep)

/-- Settles O6: every arm of the step is a command, an error entry or an update of the state. -/
theorem noStepStops : Obligations.NoStepStops := step_next

/-- Settles O12: the error of a command's row is the one its rule raises, and no other rule raises one. -/
theorem commandErrorsAreExactlyThese : Obligations.CommandErrorsAreExactlyThese := by
  refine fun s v => ⟨fun h => executeWord_of_not_legalWord h s, fun i hi => ⟨fun code hcode => ?_, fun hnone => ?_⟩⟩
  · obtain ⟨c, hc, rfl⟩ := ruleOf_error_of_raisedBy (s := clearResult s) hcode
    rw [executeWord_of_decode hi, exec_of_rule_error hc]
  · obtain ⟨u, hu⟩ := ruleOf_ok_of_raisedBy_none (s := clearResult s) (encode_of_decode hi).1 hnone
    refine ⟨setDone u, by rw [executeWord_of_decode hi, exec_of_rule_ok hu], rfl, fun hne => ?_⟩
    obtain h | h := (ruleOf_effect hu).status_cases hne <;> simp [h]

/-- Settles O43: no other command stores to LC_ACT or EMB_TX. -/
theorem onlyALatchChangesTheActiveContext : Obligations.OnlyALatchChangesTheActiveContext := by
  intro i s t h hreset hstart hvoice
  obtain ⟨u, hu, rfl⟩ | ⟨c, rfl⟩ := exec_cases h
  · obtain ⟨hact, hmem⟩ := hu.keeps_active hreset hstart hvoice
    exact ⟨hact, hmem.loadBuf_other 72 (by decide), hmem.loadBuf_other 128 (by decide)⟩
  · exact ⟨rfl, rfl, rfl⟩

/-- Settles O57: RESULT.LC is 0 at the start of every command, and a burst sets it as it stores an LC. -/
theorem rxLcChangesOnlyWithResultLc : Obligations.RxLcChangesOnlyWithResultLc := by
  intro i s t h hreset
  obtain ⟨u, hu, rfl⟩ | ⟨c, rfl⟩ := exec_cases h
  · by_cases hrx : i = .rxBurst
    · subst hrx
      obtain ⟨hlc, hstatus, hmem⟩ | ⟨hlc, hstatus, -⟩ := hu.rxEffect.stored_cases
      · exact ⟨fun _ => ⟨hmem.loadBuf_other 72 (by decide), by rw [setDone_status, hstatus]; rfl⟩,
          fun h => absurd (hlc.symm.trans h) Bool.false_ne_true⟩
      · exact ⟨fun h => absurd (hlc.symm.trans h) (by decide), fun _ => ⟨rfl, by rw [setDone_status, hstatus]⟩⟩
    · obtain ⟨hlc, hstatus⟩ := hu.keeps_lc hreset hrx
      have hmem := hu.stored_of_not_rxBurst hreset hrx
      exact ⟨fun _ => ⟨hmem.loadBuf_other 72 (by decide), by rw [setDone_status, hstatus]; rfl⟩,
        fun h => absurd (hlc.symm.trans h) Bool.false_ne_true⟩
  · exact ⟨fun _ => ⟨rfl, rfl⟩, nofun⟩

/-- Settles O58: the bursts that are counted are those of class DROPPED. -/
theorem countersCountDropsAndAborts : Obligations.CountersCountDropsAndAborts := by
  intro i s t h hreset hclr
  obtain ⟨u, hu, rfl⟩ | ⟨c, rfl⟩ := exec_cases h
  · by_cases hrx : i = .rxBurst
    · subst hrx
      refine ⟨?_, hu.rxEffect.abortCnt_cases.imp id fun habort => ⟨rfl, habort⟩⟩
      obtain ⟨hclass, hfec⟩ | ⟨hclass, hfec⟩ := hu.rxEffect.dropped_cases
      · rw [if_pos ⟨rfl, hclass⟩]
        exact hfec
      · have hne : u.result.rxClass ≠ 4 := fun h4 => by simp [h4] at hclass
        rw [if_neg fun hdropped => hne hdropped.2]
        exact hfec
    · obtain ⟨hfec, habort⟩ := hu.keeps_counters hreset hclr hrx
      rw [if_neg fun hdropped => hrx hdropped.1]
      exact ⟨hfec, .inl habort⟩
  · have hclass : (errorEntry c true (clearResult s)).result.rxClass ≠ 4 := by simp [clearedResult]
    rw [if_neg fun hdropped => hclass hdropped.2]
    exact ⟨rfl, .inl rfl⟩

/-- Settles O4: CMD stands at offset 0x00C. -/
theorem stepRunsTheDecodedCommand : Obligations.StepRunsTheDecodedCommand := fun s rest v i hinputs hrst hi => by
  rw [step_of_inputs hinputs, deliver_txn (by exact hrst), ← executeWord_of_decode hi]
  exact transact_write_reg .cmd v _

/-- Settles O5: these are the branches of the step that run no command. -/
theorem stepHandlesResetInputAndIdle : Obligations.StepHandlesResetInputAndIdle := fun s rest =>
  ⟨fun h => by simp only [step, h], fun h => step_of_inputs h, fun h => step_of_inputs h,
    fun t h hrst => by rw [step_of_inputs h, deliver_txn_reset (by exact hrst)]⟩

theorem statusWord_done_only : statusWord { State.reset.status with done := true } = 0x00000001 := by decide

/-- Settles O16: both are the reset of R550, which leaves the level of the reset input. -/
theorem softResetIsResetAndDone : Obligations.SoftResetIsResetAndDone := fun s hrst => by
  have hexec : exec .softReset s = .next (setDone (resetBlock (clearResult s))) := exec_of_rule_ok rfl
  refine ⟨{ resetBlock s with rst := true }, { resetBlock s with rst := false }, rfl, rfl, ?_, statusWord_done_only⟩
  rw [hexec, setDone, resetBlock, clearResult_rst, hrst]
  rfl

/-- Settles O17: the rules of the three commands say just this. -/
theorem controlCommandsComplete : Obligations.ControlCommandsComplete := fun s => by
  have hfrag : loadBuf 128 .rxFrag (setDone (restartReassembly 7 (clearResult s))) = 0 := by
    rw [loadBuf_setDone, loadBuf_restart_rxFrag]
  refine ⟨rfl, rfl, _, exec_rxReset s, ⟨rfl, rfl, rfl, rfl, rfl⟩, ⟨rfl, rfl⟩, rfl, rfl, rfl, rfl, rfl, hfrag,
    fun a ha => ?_⟩
  rw [setDone_mem, restartReassembly_mem, memRead_storeBuf_outside .rxFrag _ _ a (ha _ (List.mem_singleton_self _)),
    clearResult_mem]

end Sys2Proof.Claims
end

section
/-! PROOFS. The fields of the register words at their bits, and the reserved bits (10_state.md R52 to R61). -/

namespace Sys2Proof.Machine

open Sys2Proof.Claims

/-! ## Fields -/

theorem extractLsb'_eq_of_bits {w n : Nat} {x : BitVec w} {a : Nat} {y : BitVec n}
    (h : ∀ i < n, x.getLsbD (a + i) = y.getLsbD i) : x.extractLsb' a n = y :=
  BitVec.eq_of_getLsbD_eq fun i hi => by simp [hi, h i hi]

theorem ctrlWord_fields (c : Ctrl) : (ctrlWord c).extractLsb' 0 2 = syncOriginCode c.syncOrigin ∧
    (ctrlWord c).extractLsb' 4 3 = c.syncTol := by
  refine ⟨extractLsb'_eq_of_bits fun i hi => ?_, extractLsb'_eq_of_bits fun i hi => ?_⟩ <;>
    simp only [ctrlWord, BitVec.getLsbD_append] <;> interval_cases i <;> simp

theorem statusWord_errCode (s : Status) : (statusWord s).extractLsb' 4 3 = s.errCode := by
  refine extractLsb'_eq_of_bits fun i hi => ?_
  simp only [statusWord, BitVec.getLsbD_append]
  interval_cases i <;> simp

theorem resultWord_flags (r : Result) : (resultWord r).getLsbD 0 = r.corr ∧ (resultWord r).getLsbD 1 = r.uncorr ∧
    (resultWord r).getLsbD 2 = r.lc ∧ (resultWord r).getLsbD 3 = r.pl := by
  simp only [resultWord, BitVec.getLsbD_append]
  simp

theorem resultWord_fields (r : Result) :
    (resultWord r).extractLsb' 4 4 = r.rxClass ∧ (resultWord r).extractLsb' 8 8 = r.ncorr := by
  refine ⟨extractLsb'_eq_of_bits fun i hi => ?_, extractLsb'_eq_of_bits fun i hi => ?_⟩ <;>
    simp only [resultWord, BitVec.getLsbD_append] <;> interval_cases i <;> simp

theorem cfgWord_cc (c : Context) : (cfgWord c).extractLsb' 0 4 = c.cc := by
  refine extractLsb'_eq_of_bits fun i hi => ?_
  simp only [cfgWord, BitVec.getLsbD_append]
  interval_cases i <;> simp

theorem cfgWord_flags (c : Context) : (cfgWord c).getLsbD 8 = c.ts ∧ (cfgWord c).getLsbD 16 = c.priv := by
  simp only [cfgWord, BitVec.getLsbD_append]
  simp

theorem optWord_fields (c : Context) : (optWord c).extractLsb' 0 8 = c.fid ∧ (optWord c).extractLsb' 8 8 = c.so := by
  refine ⟨extractLsb'_eq_of_bits fun i hi => ?_, extractLsb'_eq_of_bits fun i hi => ?_⟩ <;>
    simp only [optWord, BitVec.getLsbD_append] <;> interval_cases i <;> simp

theorem txStateWord_fields (t : TxState) :
    (txStateWord t).extractLsb' 0 3 = t.pos ∧ (txStateWord t).getLsbD 8 = t.active := by
  refine ⟨extractLsb'_eq_of_bits fun i hi => ?_, ?_⟩ <;> simp only [txStateWord, BitVec.getLsbD_append]
  · interval_cases i <;> simp
  · simp

theorem rxStateWord_flags (r : RxState) : (rxStateWord r).getLsbD 3 = r.abort ∧ (rxStateWord r).getLsbD 12 = r.pi := by
  simp only [rxStateWord, BitVec.getLsbD_append]
  simp

theorem rxStateWord_fields (r : RxState) : (rxStateWord r).extractLsb' 0 3 = r.pos ∧
    (rxStateWord r).extractLsb' 4 4 = r.fragMask ∧ (rxStateWord r).extractLsb' 8 4 = r.cc ∧
    (rxStateWord r).extractLsb' 13 2 = r.lcss ∧ (rxStateWord r).extractLsb' 16 4 = r.dt ∧
    (rxStateWord r).extractLsb' 20 3 = r.syncId := by
  refine ⟨extractLsb'_eq_of_bits fun i hi => ?_, extractLsb'_eq_of_bits fun i hi => ?_,
    extractLsb'_eq_of_bits fun i hi => ?_, extractLsb'_eq_of_bits fun i hi => ?_,
    extractLsb'_eq_of_bits fun i hi => ?_, extractLsb'_eq_of_bits fun i hi => ?_⟩ <;>
    simp only [rxStateWord, BitVec.getLsbD_append] <;> interval_cases i <;> simp

theorem zero_append_eq_setWidth (x : BitVec 24) : 0#8 ++ x = x.setWidth 32 := by
  refine BitVec.eq_of_getLsbD_eq fun i hi => ?_
  simp only [BitVec.getLsbD_append, BitVec.getLsbD_setWidth, BitVec.getLsbD_zero]
  split_ifs with h
  · simp [hi]
  · simp [BitVec.getLsbD_of_ge x i (Nat.not_lt.mp h)]

/-! ## Reserved bits -/

theorem ctrlWord_reserved (c : Ctrl) : ctrlWord c &&& 0xFFFFF88C = 0 := by
  refine BitVec.eq_of_getLsbD_eq fun i hi => ?_
  simp only [ctrlWord, BitVec.getLsbD_append, BitVec.getLsbD_and]
  interval_cases i <;> simp

theorem statusWord_reserved (s : Status) : statusWord s &&& 0xFFFFFF88 = 0 := by
  refine BitVec.eq_of_getLsbD_eq fun i hi => ?_
  simp only [statusWord, BitVec.getLsbD_append, BitVec.getLsbD_and]
  interval_cases i <;> simp

theorem resultWord_reserved (r : Result) : resultWord r &&& 0xFFFF0000 = 0 := by
  refine BitVec.eq_of_getLsbD_eq fun i hi => ?_
  simp only [resultWord, BitVec.getLsbD_append, BitVec.getLsbD_and]
  interval_cases i <;> simp

theorem cfgWord_reserved (c : Context) : cfgWord c &&& 0xFFFEFEF0 = 0 := by
  refine BitVec.eq_of_getLsbD_eq fun i hi => ?_
  simp only [cfgWord, BitVec.getLsbD_append, BitVec.getLsbD_and]
  interval_cases i <;> simp

theorem optWord_reserved (c : Context) : optWord c &&& 0xFFFF0000 = 0 := by
  refine BitVec.eq_of_getLsbD_eq fun i hi => ?_
  simp only [optWord, BitVec.getLsbD_append, BitVec.getLsbD_and]
  interval_cases i <;> simp

theorem txStateWord_reserved (t : TxState) : txStateWord t &&& 0xFFFFFEF8 = 0 := by
  refine BitVec.eq_of_getLsbD_eq fun i hi => ?_
  simp only [txStateWord, BitVec.getLsbD_append, BitVec.getLsbD_and]
  interval_cases i <;> simp

theorem rxStateWord_reserved (r : RxState) : rxStateWord r &&& 0xFF808000 = 0 := by
  refine BitVec.eq_of_getLsbD_eq fun i hi => ?_
  simp only [rxStateWord, BitVec.getLsbD_append, BitVec.getLsbD_and]
  interval_cases i <;> simp

end Sys2Proof.Machine

namespace Sys2Proof.Claims

open Sys2Proof.Machine

/-- Settles O8: the bits of each word are those of its parts. -/
theorem registerWordsHoldTheirFields : Obligations.RegisterWordsHoldTheirFields := by
  refine ⟨⟨rfl, rfl, rfl⟩, fun s => ⟨?_, ?_, ?_, ?_, ?_, ?_⟩⟩
  · obtain ⟨horigin, htol⟩ := ctrlWord_fields s.ctrl
    obtain ⟨hdone, herr, hlc⟩ := ctrlWord_enable_bits s.ctrl
    exact ⟨horigin, htol, hdone, herr, hlc, ctrlWord_reserved s.ctrl⟩
  · obtain ⟨hdone, herr, hlc⟩ := statusWord_event_bits s.status
    exact ⟨hdone, herr, hlc, statusWord_errCode s.status, statusWord_reserved s.status⟩
  · obtain ⟨hcorr, huncorr, hlc, hpl⟩ := resultWord_flags s.result
    obtain ⟨hclass, hncorr⟩ := resultWord_fields s.result
    exact ⟨hcorr, huncorr, hlc, hpl, hclass, hncorr, resultWord_reserved s.result⟩
  · obtain ⟨hts, hpriv⟩ := cfgWord_flags s.ctx
    obtain ⟨hfid, hso⟩ := optWord_fields s.ctx
    exact ⟨cfgWord_cc s.ctx, hts, hpriv, cfgWord_reserved s.ctx, zero_append_eq_setWidth _, zero_append_eq_setWidth _,
      hfid, hso, optWord_reserved s.ctx⟩
  · obtain ⟨hpos, hactive⟩ := txStateWord_fields s.tx
    exact ⟨hpos, hactive, txStateWord_reserved s.tx⟩
  · obtain ⟨habort, hpi⟩ := rxStateWord_flags s.rx
    obtain ⟨hpos, hmask, hcc, hlcss, hdt, hsync⟩ := rxStateWord_fields s.rx
    exact ⟨hpos, habort, hmask, hcc, hpi, hlcss, hdt, hsync, rxStateWord_reserved s.rx⟩

end Sys2Proof.Claims
end

section
/-! PROOFS. The Hamming decoders (43_fec_block.md R352, R354, R356): a syndrome that is a column of the parity check
names the flipped bit, and no other syndrome is corrected. -/

namespace Sys2Proof.Machine

open Sys2Proof.Claims

/-! ## What a decoder command delivers -/

/-- A decoder command writes the decoded data and records the outcome (43_fec_block.md R350). -/
theorem decoder_delivers {n k : Nat} (dec : BitVec n → BitVec k × DecOutcome) (s : State) :
    ∃ t, runCommand (decoderRule dec) s = .next t ∧ DataCommandFrame s t ∧
      t.result = recordOutcome (dec (bits (loadBuf 256 .dataIn s) 0 n)).2 clearedResult ∧
      (∀ d m, m ≤ 255 → dec (bits (loadBuf 256 .dataIn s) 0 n) = (d, outcomeOfChanges m) →
        Delivers t d (decodedResult m)) ∧
      ((dec (bits (loadBuf 256 .dataIn s) 0 n)) = (0, .fail) → Delivers t 0#k failedResult) := by
  refine ⟨_, decoderRule_runs dec s, dataCommandState_frame _ _ s, rfl, fun d m hm h => ?_, fun h => ?_⟩
  · rw [dataInBits, h, recordOutcome_changes hm]
    exact dataCommandState_delivers d _ s
  · rw [dataInBits, h]
    exact dataCommandState_delivers 0#k failedResult s

/-! ## Words at distance 1 -/

theorem wt_flipBit_zero {w i : Nat} (hi : i < w) : wt (flipBit (0#w) i) = 1 := by
  have hset : (flipBit (0#w) i).getMsbD i = true := by simp [getMsbD_flipBit _ _ _ hi]
  have hwt := wt_flipBit_of_set hset
  rw [flipBit_flipBit, wt_zero] at hwt
  omega

theorem flipBit_eq_xor {w : Nat} (s : BitVec w) (i : Nat) : flipBit s i = s ^^^ flipBit 0 i := by simp [flipBit]

theorem dist_flipBit {w i : Nat} (s : BitVec w) (hi : i < w) : dist s (flipBit s i) = 1 := by
  rw [dist, flipBit_eq_xor, ← BitVec.xor_assoc, BitVec.xor_self, BitVec.zero_xor]
  exact wt_flipBit_zero hi

/-! ## Words of syndrome 0 are codewords -/

theorem parity_of_hamSyndrome_eq_zero {w k : Nat} {c : BitVec w} {eqs : List (List Nat)}
    (h : hamSyndrome c k eqs = 0) : ∀ j < eqs.length, c.getMsbD (k + j) = parityOf c (eqs.getD j []) := by
  induction eqs generalizing k with
  | nil => nofun
  | cons eq eqs ih =>
    simp only [hamSyndrome, Nat.add_eq_zero_iff, Bool.toNat_eq_zero, mul_eq_zero, OfNat.ofNat_ne_zero, false_or] at h
    obtain ⟨hhead, htail⟩ := h
    rintro (_ | j) hj
    · exact (by simpa using hhead : parityOf c eq = c.getMsbD k).symm
    · rw [List.getD_cons_succ, ← ih htail j (Nat.lt_of_succ_lt_succ hj), Nat.add_assoc, Nat.add_comm 1]

section
variable {k r : Nat} {eqs : List (List Nat)}

theorem bits_hamEncode (d : BitVec k) : bits (hamEncode r eqs d) 0 k = d := by
  refine eq_of_getMsbD fun i hi => ?_
  rw [getMsbD_bits _ _ _ _ (by omega), Nat.zero_add, getMsbD_hamEncode_data eqs d hi]
  simp [hi]

theorem hamEncode_bits_of_hamSyndrome_eq_zero (hover : OverDataBits k r eqs) {c : BitVec (k + r)}
    (h : hamSyndrome c k eqs = 0) : hamEncode r eqs (bits c 0 k) = c := by
  have hdata (i : Nat) (hi : i < k) : c.getMsbD i = (bits c 0 k).getMsbD i := by
    rw [getMsbD_bits _ _ _ _ (by omega), Nat.zero_add]
    simp [hi]
  refine eq_of_getMsbD fun i hi => ?_
  by_cases hik : i < k
  · rw [getMsbD_hamEncode_data eqs _ hik, hdata i hik]
  · obtain ⟨j, rfl⟩ : ∃ j, i = k + j := ⟨i - k, by omega⟩
    have hj : j < r := by omega
    rw [getMsbD_hamEncode_parity eqs _ hj, parity_of_hamSyndrome_eq_zero h j (hover.1.symm ▸ hj),
      parityOf_eq_of_data_eq hover hdata hj]

end

/-! ## The generic decoder -/

/-- The table lists every column with its bit, and nothing but columns. -/
abbrev TableOfColumns (w k : Nat) (eqs : List (List Nat)) (table : List (Nat × Nat)) : Prop :=
  (∀ i < w, table.lookup (hamColumn w k eqs i) = some i) ∧ ∀ e ∈ table, e.2 < w ∧ hamColumn w k eqs e.2 = e.1

theorem h15Table_ofColumns : TableOfColumns 15 11 h15Eqs h15Table := by decide

theorem h13Table_ofColumns : TableOfColumns 13 9 h13Eqs h13Table := by decide

theorem h16Table_ofColumns : TableOfColumns 16 11 h16Eqs h16Table := by decide

section
variable {w k : Nat} {eqs : List (List Nat)} {table : List (Nat × Nat)} {c : BitVec w}

theorem column_of_lookup (htable : TableOfColumns w k eqs table) {syn i : Nat} (h : table.lookup syn = some i) :
    i < w ∧ hamColumn w k eqs i = syn := by
  obtain ⟨before, after, rfl, -⟩ := List.lookup_eq_some_iff.mp h
  exact htable.2 (syn, i) (by simp)

theorem hamCorrect_of_zero (h : hamSyndrome c k eqs = 0) : hamCorrect k eqs table c = (c, .ok) := if_pos h

theorem hamCorrect_of_column (hcols : DistinctColumns w k eqs) (htable : TableOfColumns w k eqs table) {i : Nat}
    (hi : i < w) (h : hamSyndrome c k eqs = hamColumn w k eqs i) :
    hamCorrect k eqs table c = (flipBit c i, .corrected 1) := by
  unfold hamCorrect
  rw [h, if_neg (hamColumn_ne_zero hcols hi), htable.1 i hi]

theorem hamCorrect_of_no_column (htable : TableOfColumns w k eqs table) (h0 : hamSyndrome c k eqs ≠ 0)
    (h : ∀ i < w, hamSyndrome c k eqs ≠ hamColumn w k eqs i) : hamCorrect k eqs table c = (c, .fail) := by
  unfold hamCorrect
  rw [if_neg h0]
  split
  next i hi =>
    obtain ⟨hlt, hcol⟩ := column_of_lookup htable hi
    exact absurd hcol.symm (h i hlt)
  next => rfl

/-- What the decoder answers but FAIL is a word of syndrome 0. -/
theorem hamSyndrome_hamCorrect (htable : TableOfColumns w k eqs table) (h : (hamCorrect k eqs table c).2 ≠ .fail) :
    hamSyndrome (hamCorrect k eqs table c).1 k eqs = 0 := by
  by_cases h0 : hamSyndrome c k eqs = 0
  · rw [hamCorrect_of_zero h0]
    exact h0
  · cases hfind : table.lookup (hamSyndrome c k eqs) with
    | none => simp [hamCorrect, h0, hfind] at h
    | some i => simp [hamCorrect, h0, hfind, hamSyndrome_flipBit, (column_of_lookup htable hfind).2]

end

/-- The generic decoder on a whole codeword (43_fec_block.md R352). -/
def hamDecode {w : Nat} (k : Nat) (eqs : List (List Nat)) (table : List (Nat × Nat)) (c : BitVec w) :
    BitVec k × DecOutcome := hamData k (hamCorrect k eqs table c)

section
variable {k r : Nat} {eqs : List (List Nat)} {table : List (Nat × Nat)}

theorem hamDecode_hamEncode (hover : OverDataBits k r eqs) (d : BitVec k) :
    hamDecode k eqs table (hamEncode r eqs d) = (d, outcomeOfChanges 0) := by
  rw [hamDecode, hamCorrect_of_zero (hamSyndrome_hamEncode hover d)]
  exact congrArg (·, _) (bits_hamEncode d)

theorem hamDecode_flipBit (hover : OverDataBits k r eqs) (hcols : DistinctColumns (k + r) k eqs)
    (htable : TableOfColumns (k + r) k eqs table) (d : BitVec k) {i : Nat} (hi : i < k + r) :
    hamDecode k eqs table (flipBit (hamEncode r eqs d) i) = (d, outcomeOfChanges 1) := by
  have hsyn : hamSyndrome (flipBit (hamEncode r eqs d) i) k eqs = hamColumn (k + r) k eqs i := by
    rw [hamSyndrome_flipBit, hamSyndrome_hamEncode hover, Nat.zero_xor]
  rw [hamDecode, hamCorrect_of_column hcols htable hi hsyn, flipBit_flipBit]
  exact congrArg (·, _) (bits_hamEncode d)

theorem hamDecode_of_fail {w : Nat} {c : BitVec w} (h : hamCorrect k eqs table c = (c, .fail)) :
    hamDecode k eqs table c = (0, .fail) := by
  rw [hamDecode, h]
  rfl

/-- A word two or more bits away from every codeword is no single error. -/
theorem hamDecode_of_far (hover : OverDataBits k r eqs) (htable : TableOfColumns (k + r) k eqs table)
    {c : BitVec (k + r)} (hfar : ∀ d, 2 ≤ dist c (hamEncode r eqs d)) : hamDecode k eqs table c = (0, .fail) := by
  refine hamDecode_of_fail (hamCorrect_of_no_column htable (fun h0 => ?_) fun i hi hcol => ?_)
  · have hnear := hfar (bits c 0 k)
    rw [hamEncode_bits_of_hamSyndrome_eq_zero hover h0, dist_self] at hnear
    omega
  · have h0 : hamSyndrome (flipBit c i) k eqs = 0 := by rw [hamSyndrome_flipBit, hcol, Nat.xor_self]
    have hnear := hfar (bits (flipBit c i) 0 k)
    rw [hamEncode_bits_of_hamSyndrome_eq_zero hover h0, dist_flipBit c hi] at hnear
    omega

/-- Two errors leave a word of even weight whose syndrome is not 0, and a column is of odd weight. -/
theorem hamDecode_flipBit_flipBit (hover : OverDataBits k r eqs) (hcols : DistinctColumns (k + r) k eqs)
    (hodd : OddColumns (k + r) k r eqs) (htable : TableOfColumns (k + r) k eqs table) (d : BitVec k) {i j : Nat}
    (hi : i < k + r) (hj : j < k + r) (hij : i ≠ j) :
    hamDecode k eqs table (flipBit (flipBit (hamEncode r eqs d) i) j) = (0, .fail) := by
  have hsyn : hamSyndrome (flipBit (flipBit (hamEncode r eqs d) i) j) k eqs =
      hamColumn (k + r) k eqs i ^^^ hamColumn (k + r) k eqs j := by
    rw [hamSyndrome_flipBit, hamSyndrome_flipBit, hamSyndrome_hamEncode hover, Nat.zero_xor]
  refine hamDecode_of_fail (hamCorrect_of_no_column htable (fun h0 => ?_) fun m hm hcol => ?_)
  · exact hij (hamColumn_injective hcols hi hj (Nat.xor_eq_zero_iff.mp (hsyn ▸ h0)))
  · have hsum := congrArg (fun x => wt (BitVec.ofNat r x) % 2) (hsyn.symm.trans hcol)
    simp only [BitVec.ofNat_xor, wt_xor_mod_two] at hsum
    have hoddi := hodd i hi
    have hoddj := hodd j hj
    have hoddm := hodd m hm
    omega

/-- Every word is within one bit of a codeword when every syndrome but 0 is listed. -/
theorem hamDecode_ne_fail {w : Nat} {c : BitVec w}
    (hall : hamSyndrome c k eqs ≠ 0 → table.lookup (hamSyndrome c k eqs) ≠ none) :
    (hamDecode k eqs table c).2 ≠ .fail := by
  unfold hamDecode hamCorrect
  split_ifs with h0
  · nofun
  · cases hfind : table.lookup (hamSyndrome c k eqs) with
    | none => exact absurd hfind (hall h0)
    | some i => nofun

theorem hamSyndrome_lt {w : Nat} (c : BitVec w) (k : Nat) (eqs : List (List Nat)) :
    hamSyndrome c k eqs < 2 ^ eqs.length := by
  induction eqs generalizing k with
  | nil => simp [hamSyndrome]
  | cons eq eqs ih =>
    have hbit := (parityOf c eq ^^ c.getMsbD k).toNat_le
    have htail := ih (k + 1)
    rw [hamSyndrome, List.length_cons, pow_succ]
    omega

end

theorem h15Table_complete : ∀ syn < 16, syn ≠ 0 → h15Table.lookup syn ≠ none := by decide

theorem h15Decode_ne_fail (c : BitVec 15) : (h15Decode c).2 ≠ .fail :=
  hamDecode_ne_fail fun h0 => h15Table_complete _ (hamSyndrome_lt c 11 h15Eqs) h0

theorem recordOutcome_uncorr {o : DecOutcome} (h : o ≠ .fail) (r : Result) :
    (recordOutcome o r).uncorr = r.uncorr := by
  cases o with
  | fail => exact absurd rfl h
  | ok => rfl
  | corrected n => rfl

end Sys2Proof.Machine

namespace Sys2Proof.Claims

open Sys2Proof.Machine

/-- Settles O21: the four equations of R351 have fifteen columns, so every syndrome but 0 names a bit. -/
theorem h15DecCorrectsOneError : Obligations.H15DecCorrectsOneError := fun s => by
  obtain ⟨t, hexec, hframe, hresult, hdata, -⟩ := decoder_delivers h15Decode s
  refine ⟨t, hexec, hframe, ?_, fun d => ⟨fun hw => hdata d 0 (by decide) ?_, fun i hi hw => hdata d 1 (by decide) ?_⟩⟩
  · rw [hresult, recordOutcome_uncorr (h15Decode_ne_fail _)]
    rfl
  · rw [hw]
    exact hamDecode_hamEncode h15Eqs_overDataBits d
  · rw [hw]
    exact hamDecode_flipBit h15Eqs_overDataBits h15Eqs_distinctColumns h15Table_ofColumns d hi

/-- Settles O22. -/
theorem h13DecCorrectsOneErrorElseFails : Obligations.H13DecCorrectsOneErrorElseFails := fun s => by
  obtain ⟨t, hexec, hframe, -, hdata, hfail⟩ := decoder_delivers h13Decode s
  refine ⟨t, hexec, hframe, fun d => ⟨fun hw => hdata d 0 (by decide) ?_, fun i hi hw => hdata d 1 (by decide) ?_⟩,
    fun hfar => hfail (hamDecode_of_far h13Eqs_overDataBits h13Table_ofColumns hfar)⟩
  · rw [hw]
    exact hamDecode_hamEncode h13Eqs_overDataBits d
  · rw [hw]
    exact hamDecode_flipBit h13Eqs_overDataBits h13Eqs_distinctColumns h13Table_ofColumns d hi

/-- Settles O23: the sum of two odd columns is even, and no column is. -/
theorem h16DecCorrectsOneDetectsTwo : Obligations.H16DecCorrectsOneDetectsTwo := fun s => by
  obtain ⟨t, hexec, hframe, -, hdata, hfail⟩ := decoder_delivers h16Decode s
  refine ⟨t, hexec, hframe, fun d => ⟨fun hw => hdata d 0 (by decide) ?_, fun i hi hw => hdata d 1 (by decide) ?_,
    fun i j hi hj hij hw => hfail ?_⟩⟩
  · rw [hw]
    exact hamDecode_hamEncode h16Eqs_overDataBits d
  · rw [hw]
    exact hamDecode_flipBit h16Eqs_overDataBits h16Eqs_distinctColumns h16Table_ofColumns d hi
  · rw [hw]
    exact hamDecode_flipBit_flipBit h16Eqs_overDataBits h16Eqs_distinctColumns h16Eqs_oddColumns h16Table_ofColumns d
      hi hj hij

end Sys2Proof.Claims
end

section
/-! PROOFS. The encoders of QR(16,7,6) and Golay(20,8) (43_fec_block.md R357, R359): a systematic cyclic codeword is a
multiple of its generator, and its parity bit makes its weight even. -/

namespace Sys2Proof.Machine

open Sys2Proof.Claims

/-! ## Division leaves a multiple of the divisor -/

theorem polyMul_congr {g q q' k : Nat} (h : ∀ i < k, q.testBit i = q'.testBit i) : polyMul g q k = polyMul g q' k := by
  induction k with
  | zero => rfl
  | succ k ih => rw [polyMul, polyMul, ih fun i hi => h i (Nat.lt_succ_of_lt hi), h k (Nat.lt_succ_self k)]

/-- The quotient's coefficient k is the bit that step k of the division cancels. -/
theorem exists_polyMul_eq_xor_gf2Mod (g d k a : Nat) : ∃ q, q < 2 ^ k ∧ polyMul g q k = a ^^^ gf2Mod g d k a := by
  induction k generalizing a with
  | zero => exact ⟨0, by decide, (Nat.xor_self a).symm⟩
  | succ k ih =>
    obtain ⟨q, hq, hmul⟩ := ih (gf2DivStep g d k a)
    have hlow {i : Nat} (hi : i < k) : (2 ^ k + q).testBit i = q.testBit i := Nat.testBit_two_pow_add_gt hi q
    have htop : q.testBit k = false := Nat.testBit_eq_false_of_lt hq
    by_cases hbit : a.testBit (d + k) = true
    · refine ⟨2 ^ k + q, by rw [pow_succ]; omega, ?_⟩
      rw [polyMul, polyMul_congr fun i => hlow, hmul, Nat.testBit_two_pow_add_eq, htop, gf2Mod, gf2DivStep, if_pos hbit]
      rw [Bool.not_false, if_pos rfl, Nat.xor_right_comm, Nat.xor_xor_cancel_right]
    · refine ⟨q, by rw [pow_succ]; omega, ?_⟩
      rw [polyMul, hmul, htop, gf2Mod, gf2DivStep, if_neg hbit]
      simp

/-! ## The systematic codeword -/

section
variable {k d g : Nat} (hlead : g.testBit d = true) (hdeg : g < 2 ^ (d + 1)) (v : BitVec k)

include hlead hdeg

theorem cyclicEncode_remainder_lt : gf2Mod g d k (v.toNat <<< d) < 2 ^ d := by
  refine gf2Mod_lt hlead hdeg ?_
  rw [Nat.shiftLeft_eq, pow_add, Nat.mul_comm]
  exact Nat.mul_lt_mul_of_pos_left v.isLt (by positivity)

theorem cyclicEncode_toNat :
    (cyclicEncode (k + d) g d v).toNat = v.toNat * 2 ^ d + gf2Mod g d k (v.toNat <<< d) := by
  have hr := cyclicEncode_remainder_lt hlead hdeg v
  have hv : v.toNat < 2 ^ k := v.isLt
  have hlt : v.toNat * 2 ^ d + gf2Mod g d k (v.toNat <<< d) < 2 ^ (k + d) := by
    rw [pow_add]
    nlinarith
  rw [cyclicEncode, BitVec.toNat_ofNat, ← Nat.shiftLeft_add_eq_or_of_lt hr]
  rwa [Nat.shiftLeft_eq, Nat.mod_eq_of_lt] at *

theorem bits_cyclicEncode : bits (cyclicEncode (k + d) g d v) 0 k = v := by
  refine BitVec.eq_of_toNat_eq ?_
  have hr := cyclicEncode_remainder_lt hlead hdeg v
  rw [bits, BitVec.extractLsb'_toNat, cyclicEncode_toNat hlead hdeg, Nat.zero_add, Nat.add_sub_cancel_left,
    Nat.shiftRight_eq_div_pow, Nat.add_comm, Nat.add_mul_div_right _ _ (by positivity), Nat.div_eq_of_lt hr,
    Nat.zero_add, Nat.mod_eq_of_lt v.isLt]

theorem exists_polyMul_eq_cyclicEncode : ∃ q, polyMul g q k = (cyclicEncode (k + d) g d v).toNat := by
  obtain ⟨q, -, hq⟩ := exists_polyMul_eq_xor_gf2Mod g d k (v.toNat <<< d)
  have hr := cyclicEncode_remainder_lt hlead hdeg v
  refine ⟨q, ?_⟩
  rw [hq, cyclicEncode_toNat hlead hdeg, ← shiftLeft_or_eq_xor hr, ← Nat.shiftLeft_add_eq_or_of_lt hr, Nat.shiftLeft_eq]

end

/-! ## The parity bit -/

section
variable {w : Nat} (c : BitVec w)

theorem bits_appendParity {n : Nat} (hn : n ≤ w) : bits (appendParity c) 0 n = bits c 0 n := by
  refine eq_of_getMsbD fun i hi => ?_
  rw [getMsbD_bits _ _ _ _ (by omega), getMsbD_bits _ _ _ _ (by omega), appendParity, BitVec.getMsbD_concat]
  have hlt : i < w := by omega
  simp [hlt]

theorem onesBelow_concat (b : Bool) (j : Nat) : onesBelow (c.concat b) (j + 1) = onesBelow c j + b.toNat := by
  induction j with
  | zero => simp [onesBelow]
  | succ j ih =>
    rw [onesBelow, ih, onesBelow, BitVec.getLsbD_concat]
    simp
    omega

theorem wt_appendParity : wt (appendParity c) % 2 = 0 := by
  rw [appendParity, wt, onesBelow_concat, ← wt]
  rcases Nat.mod_two_eq_zero_or_one (wt c) with h | h <;> simp [h]
  omega

theorem bits_zero_self : bits c 0 w = c := by
  refine eq_of_getMsbD fun i hi => ?_
  rw [getMsbD_bits _ _ _ _ (by omega)]
  simp [hi]

end

/-! ## The encoder commands -/

/-- An encoder command whose codewords are systematic, multiples of a generator and of even weight. -/
theorem cyclicEncoder_writes {k d g : Nat} (hlead : g.testBit d = true) (hdeg : g < 2 ^ (d + 1))
    (s : State) :
    ∃ t, runCommand (encoderRule fun v : BitVec k => appendParity (cyclicEncode (k + d) g d v)) s = .next t ∧
      DataCommandFrame s t ∧ ∃ c : BitVec (k + d + 1), Delivers t c clearedResult ∧
        bits c 0 k = bits (loadBuf 256 .dataIn s) 0 k ∧ (∃ q, polyMul g q k = (bits c 0 (k + d)).toNat) ∧
        wt c % 2 = 0 := by
  refine ⟨_, encoderRule_runs _ s, dataCommandState_frame _ _ s, _, dataCommandState_delivers _ _ s, ?_, ?_,
    wt_appendParity _⟩
  · rw [bits_appendParity _ (by omega), bits_cyclicEncode hlead hdeg, dataInBits]
  · rw [bits_appendParity _ le_rfl, bits_zero_self]
    exact exists_polyMul_eq_cyclicEncode hlead hdeg _

theorem exec_qrEnc (s : State) :
    exec .qrEnc s = runCommand (encoderRule fun v : BitVec 7 => appendParity (cyclicEncode (7 + 8) 0x139 8 v)) s := rfl

theorem exec_golEnc (s : State) :
    exec .golEnc s = runCommand (encoderRule fun v : BitVec 8 => appendParity (cyclicEncode (8 + 11) 0xC75 11 v)) s :=
  rfl

end Sys2Proof.Machine

namespace Sys2Proof.Claims

open Sys2Proof.Machine

/-- Settles O24. -/
theorem qrEncWritesTheCodeword : Obligations.QrEncWritesTheCodeword := by
  refine ⟨fun s => ?_, minDistance_qrEncode, 0, 1, by decide +kernel⟩
  rw [exec_qrEnc]
  exact cyclicEncoder_writes (by decide) (by decide) s

/-- Settles O25. -/
theorem golEncWritesTheCodeword : Obligations.GolEncWritesTheCodeword := by
  refine ⟨fun s => ?_, minDistance_golayEncode, 0, 1, by decide +kernel⟩
  rw [exec_golEnc]
  exact cyclicEncoder_writes (by decide) (by decide) s

end Sys2Proof.Claims
end

section
/-! PROOFS. GF(2^8) and the parity of RS(12,9) (45_link_control.md R452 to R457): multiplication is additive in both
operands, so what holds of the powers of x holds of every element; the division takes away multiples of g(x), which
vanishes at α, α^2 and α^3. -/

namespace Sys2Proof.Machine

open Sys2Proof.Claims

/-! ## Additive functions of bit strings -/

/-- The function takes exclusive-or to exclusive-or. -/
abbrev Additive {m n : Nat} (f : BitVec m → BitVec n) : Prop := ∀ x y, f (x ^^^ y) = f x ^^^ f y

theorem Additive.map_zero {m n : Nat} {f : BitVec m → BitVec n} (hf : Additive f) : f 0 = 0 := by
  have h := hf 0 0
  rwa [BitVec.xor_self, BitVec.xor_self] at h

/-- Additive functions that agree on the strings of a single 1 are equal. -/
theorem Additive.ext {m n : Nat} {f g : BitVec m → BitVec n} (hf : Additive f) (hg : Additive g)
    (h : ∀ i < m, f (flipBit 0 i) = g (flipBit 0 i)) (x : BitVec m) : f x = g x := by
  induction hn : wt x generalizing x with
  | zero => rw [(wt_eq_zero x).mp hn, hf.map_zero, hg.map_zero]
  | succ n ih =>
    obtain ⟨t, i, hi, ht, rfl⟩ := exists_flipBit_of_wt hn
    rw [flipBit_eq_xor, hf, hg, ih t ht, h i hi]

theorem Additive.comp {l m n : Nat} {f : BitVec m → BitVec n} {g : BitVec l → BitVec m} (hf : Additive f)
    (hg : Additive g) : Additive fun x => f (g x) := fun x y => by simp only [hg x y, hf (g x)]

theorem Additive.id {n : Nat} : Additive fun x : BitVec n => x := fun _ _ => rfl

theorem xor_xor_xor_comm {n : Nat} (a b c d : BitVec n) : (a ^^^ b) ^^^ (c ^^^ d) = (a ^^^ c) ^^^ (b ^^^ d) := by
  ac_rfl

/-! ## Multiplication -/

/-- r doubled modulo 0x11D (45_link_control.md R452). -/
def gfDouble (r : BitVec 9) : BitVec 9 := if (r <<< 1).getLsbD 8 then (r <<< 1) ^^^ 0x11D#9 else r <<< 1

/-- The multiplication from a round on, with r so far and the bits still to come. -/
def gfRounds (a : BitVec 8) (bits : List Bool) (r : BitVec 9) : BitVec 9 :=
  bits.foldl (fun r bit => gfRound a bit r) r

theorem gfRound_eq (a : BitVec 8) (bit : Bool) (r : BitVec 9) :
    gfRound a bit r = gfDouble r ^^^ if bit then a.setWidth 9 else 0 := by
  cases bit <;> simp [gfRound, gfDouble]

theorem gfMul_eq (a b : BitVec 8) : gfMul a b = (gfRounds a ((List.range 8).map b.getMsbD) 0).setWidth 8 := by
  rw [gfRounds, List.foldl_map]
  rfl

theorem gfDouble_eq (r : BitVec 9) : gfDouble r = r <<< 1 ^^^ if (r <<< 1).getLsbD 8 then 0x11D#9 else 0 := by
  unfold gfDouble
  split_ifs
  · rfl
  · exact (BitVec.xor_zero).symm

theorem gfDouble_additive : Additive gfDouble := by
  intro r r'
  simp only [gfDouble_eq]
  rw [xor_xor_xor_comm, BitVec.shiftLeft_xor_distrib, BitVec.getLsbD_xor]
  cases (r <<< 1).getLsbD 8 <;> cases (r' <<< 1).getLsbD 8 <;> simp

theorem gfRounds_xor_left (a a' : BitVec 8) (bits : List Bool) (r r' : BitVec 9) :
    gfRounds (a ^^^ a') bits (r ^^^ r') = gfRounds a bits r ^^^ gfRounds a' bits r' := by
  induction bits generalizing r r' with
  | nil => rfl
  | cons bit bits ih =>
    have hround : gfRound (a ^^^ a') bit (r ^^^ r') = gfRound a bit r ^^^ gfRound a' bit r' := by
      simp only [gfRound_eq]
      rw [xor_xor_xor_comm, ← gfDouble_additive]
      cases bit <;> simp
    simp only [gfRounds, List.foldl_cons] at ih ⊢
    rw [hround, ih]

theorem gfRounds_xor_right (a : BitVec 8) (f f' : Nat → Bool) (is : List Nat) (r r' : BitVec 9) :
    gfRounds a (is.map fun i => f i ^^ f' i) (r ^^^ r') = gfRounds a (is.map f) r ^^^ gfRounds a (is.map f') r' := by
  induction is generalizing r r' with
  | nil => rfl
  | cons i is ih =>
    have hround : gfRound a (f i ^^ f' i) (r ^^^ r') = gfRound a (f i) r ^^^ gfRound a (f' i) r' := by
      simp only [gfRound_eq]
      rw [xor_xor_xor_comm, ← gfDouble_additive]
      cases f i <;> cases f' i <;> simp
    simp only [gfRounds, List.map_cons, List.foldl_cons] at ih ⊢
    rw [hround, ih]

theorem gfMul_additive_left (b : BitVec 8) : Additive (gfMul · b) := fun a a' => by
  simp only [gfMul_eq]
  rw [← BitVec.setWidth_xor, ← gfRounds_xor_left, BitVec.xor_self]
  rfl

theorem gfMul_additive_right (a : BitVec 8) : Additive (gfMul a) := fun b b' => by
  simp only [gfMul_eq]
  rw [← BitVec.setWidth_xor, ← gfRounds_xor_right, BitVec.xor_self]
  congr 2
  simp

theorem Additive.gfMul_left {n : Nat} {f : BitVec n → BitVec 8} (hf : Additive f) (b : BitVec 8) :
    Additive fun x => gfMul (f x) b := (gfMul_additive_left b).comp hf

theorem Additive.gfMul_right {n : Nat} {f : BitVec n → BitVec 8} (hf : Additive f) (a : BitVec 8) :
    Additive fun x => gfMul a (f x) := (gfMul_additive_right a).comp hf

theorem gfMul_comm (a b : BitVec 8) : gfMul a b = gfMul b a := by
  have hbasis : ∀ i < 8, ∀ j < 8, gfMul (flipBit 0 i) (flipBit 0 j) = gfMul (flipBit 0 j) (flipBit 0 i) := by
    decide +kernel
  refine Additive.ext (gfMul_additive_left b) (gfMul_additive_right b) (fun i hi => ?_) a
  exact Additive.ext (gfMul_additive_right _) (gfMul_additive_left _) (fun j hj => hbasis i hi j hj) b

/-- Doubling may be put off: both sides are additive in a and in b. -/
theorem gfMul_gfMul_two (a b : BitVec 8) : gfMul a (gfMul b 2) = gfMul (gfMul a b) 2 := by
  have hbasis : ∀ i < 8, ∀ j < 8,
      gfMul (flipBit 0 i) (gfMul (flipBit 0 j) 2) = gfMul (gfMul (flipBit 0 i) (flipBit 0 j)) 2 := by decide +kernel
  refine Additive.ext (Additive.id.gfMul_left _) ((Additive.id.gfMul_left b).gfMul_left 2) (fun i hi => ?_) a
  exact Additive.ext ((Additive.id.gfMul_left 2).gfMul_right _) ((Additive.id.gfMul_right _).gfMul_left 2)
    (fun j hj => hbasis i hi j hj) b

/-- A string of one bit is 1 doubled. -/
theorem flipBit_zero_eq_alphaPow : ∀ i < 8, flipBit (0 : BitVec 8) i = alphaPow (7 - i) := by decide +kernel

theorem gfMul_one (a : BitVec 8) : gfMul a 1 = a := by
  have hbasis : ∀ i < 8, gfMul (flipBit 0 i) 1 = flipBit 0 i := by decide +kernel
  exact Additive.ext (gfMul_additive_left 1) Additive.id hbasis a

theorem gfMul_gfMul_alphaPow (a b : BitVec 8) (n : Nat) :
    gfMul (gfMul a b) (alphaPow n) = gfMul a (gfMul b (alphaPow n)) := by
  induction n with
  | zero => simp only [alphaPow, gfMul_one]
  | succ n ih => rw [alphaPow, gfMul_gfMul_two, gfMul_gfMul_two, gfMul_gfMul_two, ih]

/-- Every element is a sum of powers of α. -/
theorem gfMul_assoc (a b c : BitVec 8) : gfMul (gfMul a b) c = gfMul a (gfMul b c) :=
  Additive.ext (gfMul_additive_right _) ((gfMul_additive_right b).gfMul_right a)
    (fun i hi => by rw [flipBit_zero_eq_alphaPow i hi, gfMul_gfMul_alphaPow]) c

theorem two_gfMul (a : BitVec 8) : gfMul 2 a = if a.msb then (a <<< 1) ^^^ 0x1D else a <<< 1 := by
  revert a
  decide +kernel

theorem alphaPow_order : alphaPow 8 = 0x1D ∧ alphaPow 255 = 1 ∧ ∀ n < 255, 0 < n → alphaPow n ≠ 1 := by
  decide +kernel

theorem gfMul_two_ne_zero {x : BitVec 8} (hx : x ≠ 0) : gfMul x 2 ≠ 0 := by
  revert x
  decide +kernel

/-! ## Roots of g(x) -/

/-- The polynomial g(x) of R453 vanishes at the point, and so does every multiple of it. -/
abbrev RootOfG (p : BitVec 8) : Prop :=
  ∀ q, gfMul (gfMul (gfMul q p) p) p = gfMul (gfMul (gfMul 0x0E q) p ^^^ gfMul 0x38 q) p ^^^ gfMul 0x40 q

/-- Everything is a multiple of q, so that one value of g(x) decides. -/
theorem rootOfG_of_value {p : BitVec 8}
    (h : gfMul (gfMul p p) p = gfMul (gfMul 0x0E p ^^^ 0x38) p ^^^ 0x40) : RootOfG p := fun q => by
  have hadd := gfMul_additive_right q
  rw [gfMul_comm 0x0E q, gfMul_comm 0x38 q, gfMul_comm 0x40 q, gfMul_assoc q 0x0E p, ← hadd, gfMul_assoc q p p,
    gfMul_assoc q (gfMul p p) p, gfMul_assoc q (gfMul 0x0E p ^^^ 0x38) p, ← hadd, h]

theorem rootOfG_of_mem {p : BitVec 8} (hp : p ∈ [2, 4, 8]) : RootOfG p := by
  have hvalue : ∀ p ∈ [(2 : BitVec 8), 4, 8],
      gfMul (gfMul p p) p = gfMul (gfMul 0x0E p ^^^ 0x38) p ^^^ 0x40 := by decide +kernel
  exact rootOfG_of_value (hvalue p hp)

theorem alphaPow_root : ∀ j ≤ 3, 1 ≤ j → alphaPow j ∈ [2, 4, 8] := by decide +kernel

theorem rootOfG_alphaPow {j : Nat} (h1 : 1 ≤ j) (h3 : j ≤ 3) : RootOfG (alphaPow j) :=
  rootOfG_of_mem (alphaPow_root j h3 h1)

/-! ## The division -/

/-- A polynomial's value, going on from the value so far. -/
theorem polyAt_append (p : BitVec 8) (cs ds : List (BitVec 8)) :
    polyAt p (cs ++ ds) = ds.foldl (fun acc c => gfMul acc p ^^^ c) (polyAt p cs) := by
  rw [polyAt, List.foldl_append]
  rfl

theorem gfMul_zero_left (p : BitVec 8) : gfMul 0 p = 0 := (gfMul_additive_left p).map_zero

theorem polyAt_cons (p : BitVec 8) (c : BitVec 8) (cs : List (BitVec 8)) :
    polyAt p (c :: cs) = cs.foldl (fun acc c => gfMul acc p ^^^ c) c := by
  rw [polyAt, List.foldl_cons, gfMul_zero_left]
  congr 1
  exact BitVec.zero_xor

/-- A step of the division takes away a multiple of g(x), so it keeps the value at a root of g(x). -/
theorem polyAt_rsDivStep {p : BitVec 8} (hp : RootOfG p) (cs : List (BitVec 8)) :
    polyAt p (rsDivStep cs) = polyAt p cs := by
  match cs with
  | [] | [_] | [_, _] | [_, _, _] => rfl
  | q :: r1 :: r2 :: r3 :: rest =>
    have hvalue : gfMul (gfMul (r1 ^^^ gfMul 0x0E q) p ^^^ (r2 ^^^ gfMul 0x38 q)) p ^^^ (r3 ^^^ gfMul 0x40 q) =
        gfMul (gfMul (gfMul q p ^^^ r1) p ^^^ r2) p ^^^ r3 := by
      have hq := hp q
      have hadd := gfMul_additive_left p
      simp only [hadd _ _] at hq ⊢
      rw [hq]
      ac_rfl
    simp only [rsDivStep, polyAt_cons, List.foldl_cons, hvalue]

theorem polyAt_rsDivide {p : BitVec 8} (hp : RootOfG p) (n : Nat) (cs : List (BitVec 8)) :
    polyAt p (rsDivide n cs) = polyAt p cs := by
  induction n generalizing cs with
  | zero => rfl
  | succ n ih => rw [rsDivide, ih, polyAt_rsDivStep hp]

theorem length_rsDivStep {cs : List (BitVec 8)} (h : 4 ≤ cs.length) : (rsDivStep cs).length = cs.length - 1 := by
  match cs with
  | q :: r1 :: r2 :: r3 :: rest => rfl

theorem length_rsDivide {n : Nat} {cs : List (BitVec 8)} (h : n + 3 ≤ cs.length) :
    (rsDivide n cs).length = cs.length - n := by
  induction n generalizing cs with
  | zero => rfl
  | succ n ih =>
    have hstep := length_rsDivStep (cs := cs) (by omega)
    rw [rsDivide, ih (by omega), hstep]
    omega

theorem length_rsRemainder (m : BitVec 72) : (rsRemainder m).length = 3 := length_rsDivide (by simp)

theorem rsRemainder_eq (m : BitVec 72) :
    rsRemainder m = [(rsRemainder m).getD 0 0, (rsRemainder m).getD 1 0, (rsRemainder m).getD 2 0] := by
  match h : rsRemainder m, length_rsRemainder m with
  | [a, b, c], _ => rfl

/-- A remainder of ms(x)·x^3 put in the place of its zeros cancels its value. -/
theorem polyAt_append_remainder {p x y z : BitVec 8} {ms : List (BitVec 8)}
    (h : polyAt p [x, y, z] = polyAt p (ms ++ [0, 0, 0])) : polyAt p (ms ++ [x, y, z]) = 0 := by
  have hadd := gfMul_additive_left p
  rw [polyAt_append] at h ⊢
  simp only [polyAt_cons, List.foldl_cons, List.foldl_nil, hadd _ _, BitVec.ofNat_eq_ofNat, BitVec.xor_zero] at h ⊢
  rw [← h, BitVec.xor_assoc, BitVec.xor_assoc, ← BitVec.xor_assoc (gfMul _ p), BitVec.xor_self]

/-- The message followed by its parity vanishes at the roots of g(x) (R453). -/
theorem polyAt_message_parity {p : BitVec 8} (hp : RootOfG p) (m : BitVec 72) :
    polyAt p ((List.range 9).map (byteAt m) ++ rsRemainder m) = 0 := by
  have hrem : polyAt p (rsRemainder m) = polyAt p ((List.range 9).map (byteAt m) ++ [0, 0, 0]) := by
    rw [rsRemainder, polyAt_rsDivide hp]
  rw [rsRemainder_eq] at hrem ⊢
  exact polyAt_append_remainder hrem

/-- Two polynomials of degree n - 1 that differ in one coefficient differ at α, which has no zero divisor. -/
theorem polyAt_two_ne {f f' : Nat → BitVec 8} {n k : Nat} (hk : k < n) (hne : f k ≠ f' k)
    (hsame : ∀ i < n, i ≠ k → f i = f' i) :
    polyAt 2 ((List.range n).map f) ≠ polyAt 2 ((List.range n).map f') := by
  induction n with
  | zero => omega
  | succ n ih =>
    simp only [List.range_succ, List.map_append, List.map_cons, List.map_nil, polyAt_append, List.foldl_cons,
      List.foldl_nil]
    rcases Nat.lt_succ_iff_lt_or_eq.mp hk with hlt | rfl
    · have hbelow := ih hlt fun i hi => hsame i (Nat.lt_succ_of_lt hi)
      rw [hsame n (Nat.lt_succ_self n) (Nat.ne_of_gt hlt)]
      intro heq
      have hdiff := (BitVec.xor_left_inj _).mp heq
      refine gfMul_two_ne_zero (mt BitVec.xor_eq_zero_iff.mp hbelow) ?_
      exact (gfMul_additive_left 2 _ _).trans (BitVec.xor_eq_zero_iff.mpr hdiff)
    · have hbelow : (List.range k).map f = (List.range k).map f' :=
        List.map_congr_left fun i hi =>
          hsame i (Nat.lt_succ_of_lt (List.mem_range.mp hi)) (Nat.ne_of_lt (List.mem_range.mp hi))
      rw [hbelow]
      exact mt (BitVec.xor_right_inj _).mp hne

end Sys2Proof.Machine

namespace Sys2Proof.Claims

open Sys2Proof.Machine

/-- Settles O35: additivity leaves the laws to be checked on the strings of a single 1. -/
theorem gfMultiplication : Obligations.GfMultiplication := by
  obtain ⟨height, hfull, hbelow⟩ := alphaPow_order
  exact ⟨fun a b c => ⟨gfMul_additive_left c a b, gfMul_additive_right a b c⟩, gfMul_comm, gfMul_assoc,
    fun a => ⟨gfMul_one a, two_gfMul a⟩, height, hfull, fun n hpos hlt => hbelow n hlt hpos⟩

end Sys2Proof.Claims
end

section
/-! PROOFS. The link control commands (45_link_control.md R460 to R463): the bytes of DATA_IN and DATA_OUT, the bytes
of the LC and of the Full LC, and the checks. -/

namespace Sys2Proof.Machine

open Sys2Proof.Claims

/-! ## Bytes of strings -/

theorem getMsbD_byteAt {w : Nat} (v : BitVec w) {k i : Nat} (hk : 8 * k + 8 ≤ w) (hi : i < 8) :
    (byteAt v k).getMsbD i = v.getMsbD (8 * k + i) := by
  rw [byteAt, getMsbD_bits _ _ _ _ hk]
  simp [hi]

theorem byteAt_xor {w : Nat} (s t : BitVec w) (k : Nat) : byteAt (s ^^^ t) k = byteAt s k ^^^ byteAt t k :=
  bits_xor s t _ _

theorem byteAt_bits {w : Nat} (v : BitVec w) {n k : Nat} (hk : 8 * k + 8 ≤ n) (hn : n ≤ w) :
    byteAt (bits v 0 n) k = byteAt v k := by
  refine eq_of_getMsbD fun i hi => ?_
  have hlt : 8 * k + i < n := by omega
  rw [getMsbD_byteAt _ hk hi, getMsbD_byteAt _ (hk.trans hn) hi, getMsbD_bits _ _ _ _ (by omega)]
  simp [hlt]

theorem byteAt_append_left {m n : Nat} (a : BitVec m) (b : BitVec n) {k : Nat} (hk : 8 * k + 8 ≤ m) :
    byteAt (a ++ b) k = byteAt a k := by
  refine eq_of_getMsbD fun i hi => ?_
  rw [getMsbD_byteAt _ (by omega) hi, getMsbD_byteAt _ hk hi, BitVec.getMsbD_append, if_neg (by omega)]

theorem byteAt_append_right {m n : Nat} (a : BitVec (8 * m)) (b : BitVec n) {k : Nat} (hk : 8 * k + 8 ≤ n) :
    byteAt (a ++ b) (m + k) = byteAt b k := by
  refine eq_of_getMsbD fun i hi => ?_
  rw [getMsbD_byteAt _ (by omega) hi, getMsbD_byteAt _ hk hi, BitVec.getMsbD_append, if_pos (by omega)]
  congr 1
  omega

theorem byteAt_self (b : BitVec 8) : byteAt b 0 = b := bits_zero_self b

theorem byteAt_padTo {w n k : Nat} (v : BitVec w) (hk : 8 * k + 8 ≤ w) (hn : w ≤ n) :
    byteAt (padTo n v) k = byteAt v k := by
  refine eq_of_getMsbD fun i hi => ?_
  rw [getMsbD_byteAt _ (hk.trans hn) hi, getMsbD_byteAt _ hk hi, getMsbD_padTo _ _ _ hn]

theorem byteAt_padTo_past {w n k : Nat} (v : BitVec w) (hw : w ≤ 8 * k) (hk : 8 * k + 8 ≤ n) :
    byteAt (padTo n v) k = 0 := by
  refine eq_of_getMsbD fun i hi => ?_
  rw [getMsbD_byteAt _ hk hi, getMsbD_padTo _ _ _ (by omega), BitVec.getMsbD_of_ge _ _ (by omega)]
  simp

theorem bits_padTo {w n : Nat} (v : BitVec w) (hn : w ≤ n) : bits (padTo n v) 0 w = v := by
  refine eq_of_getMsbD fun i hi => ?_
  rw [getMsbD_bits _ _ _ _ (by omega), getMsbD_padTo _ _ _ hn]
  simp [hi]

theorem byteAt_setBits {w k j : Nat} (s : BitVec w) (v : BitVec 8) (hj : 8 * j + 8 ≤ w) :
    byteAt (setBits s (8 * k) v) j = if j = k then v else byteAt s j := by
  refine eq_of_getMsbD fun i hi => ?_
  have hlt : 8 * j + i < w := by omega
  rw [getMsbD_byteAt _ hj hi, getMsbD_setBits]
  by_cases hjk : j = k
  · subst hjk
    simp [hlt, hi]
  · have hout : ¬ (8 * k ≤ 8 * j + i ∧ 8 * j + i < 8 * k + 8) := by omega
    rw [if_neg hout, if_neg hjk, getMsbD_byteAt _ hj hi]
    simp [hlt]

theorem byteSum_eq_sum {w : Nat} (l : BitVec w) (n : Nat) :
    byteSum l n = ((List.range n).map fun k => (byteAt l k).toNat).sum := by
  induction n with
  | zero => rfl
  | succ n ih => simp [byteSum, ih, List.range_succ]

/-! ## Bytes of DATA_IN and DATA_OUT -/

theorem byteAt_dataIn {n k : Nat} (hk : 8 * k + 8 ≤ n) (hn : n ≤ 256) (s : State) :
    byteAt (bits (loadBuf 256 .dataIn s) 0 n) k = memRead s.mem (0x100 + k) := by
  rw [byteAt_bits _ hk hn, byteAt_loadBuf 256 .dataIn s k rfl (show k < 32 by omega)]
  rfl

theorem bits_dataInBits {m n : Nat} (hm : m ≤ n) (hn : n ≤ 256) (s : State) :
    bits (dataInBits n s) 0 m = dataInBits m s := by
  refine eq_of_getMsbD fun i hi => ?_
  rw [getMsbD_bits _ _ _ _ (by omega), Nat.zero_add, getMsbD_dataInBits hn (by omega),
    getMsbD_dataInBits (by omega) hi]
  simp [hi]

theorem memRead_dataOut {k : Nat} (hk : k < 32) (s : State) :
    memRead s.mem (0x120 + k) = byteAt (loadBuf 256 .dataOut s) k :=
  (byteAt_loadBuf 256 .dataOut s k rfl hk).symm

section
variable {n : Nat} (v : BitVec n) (r : Result) (s : State) {k : Nat}

theorem memRead_dataCommandState (hk : 8 * k + 8 ≤ n) (hn : n ≤ 256) :
    memRead (dataCommandState v r s).mem (0x120 + k) = byteAt v k := by
  rw [memRead_dataOut (by omega), (dataCommandState_delivers v r s).1, byteAt_padTo v hk hn]

theorem memRead_dataCommandState_past (hn : n ≤ 8 * k) (hk : k < 32) :
    memRead (dataCommandState v r s).mem (0x120 + k) = 0 := by
  rw [memRead_dataOut hk, (dataCommandState_delivers v r s).1, byteAt_padTo_past v hn (by omega)]

end

/-- A command whose rule writes v to DATA_OUT and keeps RESULT at 0. -/
theorem runCommand_of_writeDataOut {n : Nat} {v : BitVec n} {rule : State → Except ErrCode State} {s : State}
    (h : rule (clearResult s) = .ok (writeDataOut v (clearResult s))) :
    runCommand rule s = .next (dataCommandState v clearedResult s) := runCommand_ok h

/-! ## The LC -/

section
variable (c : Context)

theorem byteAt_buildLc_src {k : Nat} (hk : k < 3) : byteAt (buildLc c) (6 + k) = byteAt c.src k :=
  byteAt_append_right (m := 6) (flcoByte c.priv ++ c.fid ++ c.so ++ c.dst) c.src (by omega)

theorem byteAt_buildLc_dst {k : Nat} (hk : k < 3) : byteAt (buildLc c) (3 + k) = byteAt c.dst k :=
  (byteAt_append_left (flcoByte c.priv ++ c.fid ++ c.so ++ c.dst) c.src (by omega)).trans
    (byteAt_append_right (m := 3) (flcoByte c.priv ++ c.fid ++ c.so) c.dst (by omega))

/-- The three bytes before the two addresses: FLCO, FID and service options. -/
theorem byteAt_buildLc_head {k : Nat} (hk : k < 3) :
    byteAt (buildLc c) k = byteAt (flcoByte c.priv ++ c.fid ++ c.so) k :=
  (byteAt_append_left (flcoByte c.priv ++ c.fid ++ c.so ++ c.dst) c.src (by omega)).trans
    (byteAt_append_left (flcoByte c.priv ++ c.fid ++ c.so) c.dst (by omega))

theorem byteAt_three_bytes (a b d : BitVec 8) :
    byteAt (a ++ b ++ d) 0 = a ∧ byteAt (a ++ b ++ d) 1 = b ∧ byteAt (a ++ b ++ d) 2 = d := by
  refine ⟨?_, ?_, ?_⟩
  · rw [byteAt_append_left (a ++ b) d (by decide), byteAt_append_left a b (by decide), byteAt_self]
  · rw [byteAt_append_left (a ++ b) d (by decide)]
    exact (byteAt_append_right (m := 1) (k := 0) a b (by decide)).trans (byteAt_self b)
  · exact (byteAt_append_right (m := 2) (k := 0) (a ++ b) d (by decide)).trans (byteAt_self d)

end

/-! ## The checksum -/

theorem cs5Of_lt (l : BitVec 72) : cs5Of l < 31 := Nat.mod_lt _ (by decide)

theorem cs5Of_dataIn (s : State) :
    cs5Of (dataInBits 72 s) = ((List.range 9).map fun k => (memRead s.mem (0x100 + k)).toNat).sum % 31 := by
  rw [cs5Of, byteSum_eq_sum]
  congr 2
  refine List.map_congr_left fun k hk => ?_
  rw [dataInBits, byteAt_dataIn (by have := List.mem_range.mp hk; omega) (by decide)]

/-! ## The Full LC -/

theorem bits_fullLc (l : BitVec 72) (select : Nat) : bits (fullLc l select) 0 72 = l := by
  refine eq_of_getMsbD fun i hi => ?_
  rw [getMsbD_bits _ _ _ _ (by decide), fullLc, BitVec.getMsbD_append, if_neg (by omega)]
  simp [hi]

/-- A word passes exactly when it is the Full LC of its own message. -/
theorem rsCheck_iff (f : BitVec 96) (select : Nat) :
    rsCheck f select = true ↔ f = fullLc (bits f 0 72) select := by
  rw [rsCheck, decide_eq_true_iff]
  constructor
  · intro h
    rw [fullLc, ← h]
    refine eq_of_getMsbD fun i hi => ?_
    rw [BitVec.getMsbD_append, getMsbD_bits _ _ _ _ (by decide), getMsbD_bits _ _ _ _ (by decide)]
    split_ifs with h72
    · have hlow : i - 72 < 24 := by omega
      simp [hlow, h72]
    · simp [Nat.not_le.mp h72]
  · intro h
    refine eq_of_getMsbD fun i hi => ?_
    have hright : 72 ≤ 72 + i := Nat.le_add_right 72 i
    rw [getMsbD_bits _ _ _ _ (by decide), h, bits_fullLc, fullLc, BitVec.getMsbD_append, if_pos hright,
      Nat.add_sub_cancel_left]
    simp [hi]

theorem rsCheck_fullLc (l : BitVec 72) (select : Nat) : rsCheck (fullLc l select) select = true := by
  rw [rsCheck_iff, bits_fullLc]

theorem byteAt_fullLc_message (l : BitVec 72) (select : Nat) {k : Nat} (hk : k < 9) :
    byteAt (fullLc l select) k = byteAt l k := byteAt_append_left l _ (by omega)

theorem byteAt_rsMask (select : Nat) : ∀ k < 3, byteAt (rsMask select) k = maskByte select := by
  unfold rsMask maskByte
  split_ifs <;> decide

theorem map_byteAt_rsParity (l : BitVec 72) : (List.range 3).map (byteAt (rsParity l)) = rsRemainder l := by
  obtain ⟨h0, h1, h2⟩ :=
    byteAt_three_bytes ((rsRemainder l).getD 0 0) ((rsRemainder l).getD 1 0) ((rsRemainder l).getD 2 0)
  conv_rhs => rw [rsRemainder_eq]
  simp only [List.range_succ, List.range_zero, List.nil_append, List.map_cons, List.map_nil,
    List.cons_append, rsParity]
  rw [h0, h1, h2]

/-- With the mask taken off, the last three bytes are the parity. -/
theorem byteAt_fullLc_parity (l : BitVec 72) (select : Nat) {k : Nat} (hk : k < 3) :
    byteAt (fullLc l select) (9 + k) ^^^ maskByte select = byteAt (rsParity l) k := by
  have hright : byteAt (fullLc l select) (9 + k) = byteAt (rsParity l ^^^ rsMask select) k :=
    byteAt_append_right (m := 9) l _ (by omega)
  rw [hright, byteAt_xor, byteAt_rsMask select k hk, BitVec.xor_assoc, BitVec.xor_self, BitVec.xor_zero]

/-- The coefficients of a Full LC with its mask taken off. -/
def unmasked (f : BitVec 96) (select k : Nat) : BitVec 8 :=
  if k < 9 then byteAt f k else byteAt f k ^^^ maskByte select

theorem map_unmasked (f : BitVec 96) (select : Nat) : (List.range 12).map (unmasked f select) =
    (List.range 9).map (byteAt f) ++ (List.range 3).map fun k => byteAt f (9 + k) ^^^ maskByte select := by
  rw [show 12 = 9 + 3 from rfl, List.range_add, List.map_append, List.map_map]
  congr 1

/-- A Full LC vanishes at the roots of g(x) (R453, R455). -/
theorem polyAt_unmasked_fullLc {p : BitVec 8} (hp : RootOfG p) (l : BitVec 72) (select : Nat) :
    polyAt p ((List.range 12).map (unmasked (fullLc l select) select)) = 0 := by
  have hmessage : (List.range 9).map (byteAt (fullLc l select)) = (List.range 9).map (byteAt l) :=
    List.map_congr_left fun k hk => byteAt_fullLc_message l select (List.mem_range.mp hk)
  have hparity : ((List.range 3).map fun k => byteAt (fullLc l select) (9 + k) ^^^ maskByte select) =
      rsRemainder l := by
    rw [← map_byteAt_rsParity]
    exact List.map_congr_left fun k hk => byteAt_fullLc_parity l select (List.mem_range.mp hk)
  rw [map_unmasked, hmessage, hparity, polyAt_message_parity hp]

/-- Two Full LCs under one mask do not differ in a single byte. -/
theorem fullLc_ne_of_byte {l l' : BitVec 72} {select k : Nat} (hk : k < 12)
    (hne : byteAt (fullLc l select) k ≠ byteAt (fullLc l' select) k) :
    ∃ i < 12, i ≠ k ∧ byteAt (fullLc l select) i ≠ byteAt (fullLc l' select) i := by
  by_contra! hsame
  have hroot := rootOfG_of_mem (p := 2) (by decide)
  refine polyAt_two_ne (f := unmasked (fullLc l select) select) (f' := unmasked (fullLc l' select) select) hk ?_ ?_
    ((polyAt_unmasked_fullLc hroot l select).trans (polyAt_unmasked_fullLc hroot l' select).symm)
  · unfold unmasked
    split_ifs
    · exact hne
    · exact mt (BitVec.xor_left_inj _).mp hne
  · intro i hi hik
    rw [unmasked, unmasked, hsame i hi hik]

/-- The message is the same and the three parities differ in their masks. -/
theorem fullLc_ne_of_mask (l : BitVec 72) {m n : Nat} (hm : m ≤ 2) (hn : n ≤ 2) (hne : m ≠ n) :
    fullLc l m ≠ fullLc l n := by
  intro h
  have hbyte := congrArg (fun f => byteAt f 9) h
  have hunm := byteAt_fullLc_parity l m (k := 0) (by decide)
  have hunn := byteAt_fullLc_parity l n (k := 0) (by decide)
  have hmask : maskByte m = maskByte n := by
    have heq := hunm.trans hunn.symm
    rw [hbyte] at heq
    exact (BitVec.xor_right_inj _).mp heq
  exact hne ((by decide : ∀ m ≤ 2, ∀ n ≤ 2, maskByte m = maskByte n → m = n) m hm n hn hmask)

end Sys2Proof.Machine

namespace Sys2Proof.Claims

open Sys2Proof.Machine

/-- Settles O34. -/
theorem lcBuildWritesTheRecord : Obligations.LcBuildWritesTheRecord := by
  intro s hvalid
  have hexec : exec .lcBuild s = .next (dataCommandState (buildLc s.ctx) clearedResult s) :=
    runCommand_of_writeDataOut (rule := lcBuildRule) (if_pos ((validContext_iff _).mpr hvalid))
  obtain ⟨hflco, hfid, hso⟩ := byteAt_three_bytes (flcoByte s.ctx.priv) s.ctx.fid s.ctx.so
  have hbyte (k : Nat) (hk : k < 9) := memRead_dataCommandState (buildLc s.ctx) clearedResult s (k := k) (by omega)
    (by decide)
  refine ⟨_, hexec, dataCommandState_frame _ _ s, rfl, _, rfl, ?_, ?_, ?_, ?_, ?_, ?_, ?_, ?_, ?_,
    fun k h9 h32 => memRead_dataCommandState_past (buildLc s.ctx) _ s (by omega) h32⟩
  · exact (hbyte 0 (by decide)).trans ((byteAt_buildLc_head s.ctx (by decide)).trans hflco)
  · exact (hbyte 1 (by decide)).trans ((byteAt_buildLc_head s.ctx (by decide)).trans hfid)
  · exact (hbyte 2 (by decide)).trans ((byteAt_buildLc_head s.ctx (by decide)).trans hso)
  · exact (hbyte 3 (by decide)).trans (byteAt_buildLc_dst s.ctx (k := 0) (by decide))
  · exact (hbyte 4 (by decide)).trans (byteAt_buildLc_dst s.ctx (k := 1) (by decide))
  · exact (hbyte 5 (by decide)).trans (byteAt_buildLc_dst s.ctx (k := 2) (by decide))
  · exact (hbyte 6 (by decide)).trans (byteAt_buildLc_src s.ctx (k := 0) (by decide))
  · exact (hbyte 7 (by decide)).trans (byteAt_buildLc_src s.ctx (k := 1) (by decide))
  · exact (hbyte 8 (by decide)).trans (byteAt_buildLc_src s.ctx (k := 2) (by decide))

/-- Settles O36: the parity is the remainder by g(x), whose roots are α, α^2 and α^3. -/
theorem rsEncParityVanishes : Obligations.RsEncParityVanishes := by
  refine ⟨fun s mask hmask => ?_, fun s mask hmask => ?_⟩
  · exact exec_of_rule_error (i := .rsEnc mask) (c := .illegalCmd) (if_neg (by omega))
  · have hexec : exec (.rsEnc mask) s =
        .next (dataCommandState (fullLc (dataInBits 72 s) mask.toNat) clearedResult s) :=
      runCommand_of_writeDataOut (rule := rsEncRule mask) (if_pos hmask)
    have hbyte (k : Nat) (hk : k < 12) := memRead_dataCommandState (fullLc (dataInBits 72 s) mask.toNat) clearedResult s
      (k := k) (by omega) (by decide)
    refine ⟨_, hexec, dataCommandState_frame _ _ s, rfl, ?_, fun k hk => ?_,
      fun k h12 h32 => memRead_dataCommandState_past (fullLc (dataInBits 72 s) mask.toNat) _ s (by omega) h32,
      fun j h1 h3 => ?_⟩
    · rw [(dataCommandState_delivers (fullLc (dataInBits 72 s) mask.toNat) _ s).1, bits_padTo _ (by decide), dataInBits]
    · rw [hbyte k (by omega), byteAt_fullLc_message _ _ hk, dataInBits, byteAt_dataIn (by omega) (by decide)]
    · rw [← polyAt_unmasked_fullLc (rootOfG_alphaPow h1 h3) (dataInBits 72 s) mask.toNat, map_unmasked]
      refine congrArg (polyAt _) (congrArg₂ _ (List.map_congr_left fun k hk => ?_) (List.map_congr_left fun k hk => ?_))
      · exact hbyte k (by have := List.mem_range.mp hk; omega)
      · have hk3 := List.mem_range.mp hk
        have hoffset : 0x129 + k = 0x120 + (9 + k) := by omega
        rw [hoffset, hbyte (9 + k) (by omega)]

/-- Settles O37: a word passes exactly when it is the Full LC of its message, and no other Full LC is one byte away. -/
theorem rsChkAcceptsExactlyTheFullLc : Obligations.RsChkAcceptsExactlyTheFullLc := by
  refine ⟨fun s mask hmask => ?_, fun s mask hmask => ?_, fun l select k e hk he => ?_, fun l m n hm hn hne => ?_,
    by decide +kernel⟩
  · exact exec_of_rule_error (i := .rsChk mask) (c := .illegalCmd) (if_neg (by omega))
  · by_cases hpass : rsCheck (dataInBits 96 s) mask.toNat = true
    · have hexec : exec (.rsChk mask) s = .next (dataCommandState (dataInBits 72 s) clearedResult s) :=
        runCommand_of_writeDataOut (rule := rsChkRule mask) ((if_pos hmask).trans (if_pos hpass))
      refine ⟨_, hexec, dataCommandState_frame _ _ s, dataInBits 96 s, rfl, fun _ => ?_,
        fun hno => absurd ((rsCheck_iff _ _).mp hpass) hno⟩
      rw [bits_dataInBits (by decide) (by decide)]
      exact dataCommandState_delivers (dataInBits 72 s) clearedResult s
    · have hexec : exec (.rsChk mask) s = .next (dataCommandState 0#72 failedResult s) :=
        runCommand_ok (rule := rsChkRule mask) ((if_pos hmask).trans (if_neg hpass))
      exact ⟨_, hexec, dataCommandState_frame _ _ s, dataInBits 96 s, rfl,
        fun hyes => absurd ((rsCheck_iff _ _).mpr hyes) hpass, fun _ => dataCommandState_delivers 0#72 failedResult s⟩
  · rw [Bool.eq_false_iff, Ne, rsCheck_iff]
    intro hfull
    have hbyte : byteAt (fullLc l select) k ≠ byteAt (fullLc l select) k ^^^ e := fun h =>
      he ((BitVec.xor_right_inj _).mp (h.symm.trans BitVec.xor_zero.symm))
    obtain ⟨i, hi, hik, hne⟩ := fullLc_ne_of_byte hk (l := l) (select := select)
      (by rwa [← hfull, byteAt_setBits _ _ (by omega), if_pos rfl])
    rw [← hfull, byteAt_setBits _ _ (by omega), if_neg hik] at hne
    exact hne rfl
  · rw [Bool.eq_false_iff, Ne, rsCheck_iff, bits_fullLc]
    exact fullLc_ne_of_mask l hm hn hne

/-- Settles O38. -/
theorem cs5WritesTheChecksum : Obligations.Cs5WritesTheChecksum := by
  intro s
  refine ⟨_, encoderRule_runs (fun l : BitVec 72 => BitVec.ofNat 8 (cs5Of l)) s, dataCommandState_frame _ _ s, rfl, ?_,
    fun k h1 h32 => memRead_dataCommandState_past (BitVec.ofNat 8 (cs5Of (dataInBits 72 s))) _ s (by omega) h32⟩
  have hlt : cs5Of (dataInBits 72 s) < 2 ^ 8 := (cs5Of_lt _).trans (by decide)
  refine (congrArg BitVec.toNat (memRead_dataCommandState (BitVec.ofNat 8 (cs5Of (dataInBits 72 s))) _ s (k := 0)
    (by decide) (by decide))).trans ?_
  rw [byteAt_self, BitVec.toNat_ofNat, Nat.mod_eq_of_lt hlt, cs5Of_dataIn]

end Sys2Proof.Claims
end

section
/-! PROOFS. BPTC(196,96) (44_fec_bptc.md R400 to R406): the encoder writes a product codeword, a codeword is invisible
to the decoder, and a single error is corrected in the first pass. -/

namespace Sys2Proof.Machine

open Sys2Proof.Claims

/-! ## Lines of the matrix -/

theorem getD_bptcRow {r c : Nat} (hc : c < 15) : (bptcRow r).getD c 0 = 1 + 15 * r + c := by
  simp [bptcRow, hc]

theorem getD_bptcCol {r c : Nat} (hr : r < 13) : (bptcCol c).getD r 0 = 1 + c + 15 * r := by
  simp [bptcCol, hr]

theorem gather_bptcRow (r : Nat) (d : BitVec 196) :
    gather 15 (bptcRow r) d = mkBits 15 fun c => d.getMsbD (1 + 15 * r + c) := by
  refine eq_of_getMsbD fun c hc => ?_
  rw [getMsbD_gather, getMsbD_mkBits, getD_bptcRow hc]

theorem gather_bptcCol (c : Nat) (d : BitVec 196) :
    gather 13 (bptcCol c) d = mkBits 13 fun r => d.getMsbD (1 + c + 15 * r) := by
  refine eq_of_getMsbD fun r hr => ?_
  rw [getMsbD_gather, getMsbD_mkBits, getD_bptcCol hr]

/-! ## The encoded matrix -/

/-- The information bits in the matrix, before any coding (R402). -/
def bptcPlace (i : BitVec 96) : BitVec 196 := scatter 196 bptcInfoPos i

/-- The codeword in matrix form. -/
def bptcMatrix (i : BitVec 96) : BitVec 196 := bptcCodeCols (bptcCodeRows (bptcPlace i))

theorem bptcEncode_eq (i : BitVec 96) : bptcEncode i = bptcInterleave (bptcMatrix i) := rfl

theorem bptcDeinterleave_encode (i : BitVec 96) : bptcDeinterleave (bptcEncode i) = bptcMatrix i := by
  rw [bptcEncode_eq, bptcDeinterleave_interleave]

section
variable (d : BitVec 196) {r c : Nat}

theorem getMsbD_bptcCodeRows (hr : r < 9) (hc : c < 15) :
    (bptcCodeRows d).getMsbD (1 + 15 * r + c) = (h15Encode (bits d (1 + 15 * r) 11)).getMsbD c := by
  have hrow : (1 + 15 * r + c - 1) / 15 = r := by omega
  have hcol : (1 + 15 * r + c - 1) % 15 = c := by omega
  have hlt : 1 + 15 * r + c < 196 := by omega
  have hcoded : ¬ (1 + 15 * r + c = 0 ∨ 9 ≤ r) := by omega
  rw [bptcCodeRows, getMsbD_mkBits, hrow, hcol, if_neg hcoded]
  simp [hlt]

theorem getMsbD_bptcCodeCols (hr : r < 13) (hc : c < 15) :
    (bptcCodeCols d).getMsbD (1 + 15 * r + c) = (h13Encode (gather 9 (bptcCol c) d)).getMsbD r := by
  have hrow : (1 + 15 * r + c - 1) / 15 = r := by omega
  have hcol : (1 + 15 * r + c - 1) % 15 = c := by omega
  have hlt : 1 + 15 * r + c < 196 := by omega
  have hcoded : ¬ 1 + 15 * r + c = 0 := by omega
  rw [bptcCodeCols, getMsbD_mkBits, hrow, hcol, if_neg hcoded]
  simp [hlt]

theorem getMsbD_bptcCodeCols_data (hr : r < 9) (hc : c < 15) :
    (bptcCodeCols d).getMsbD (1 + 15 * r + c) = d.getMsbD (1 + 15 * r + c) := by
  rw [getMsbD_bptcCodeCols d (by omega) hc, h13Encode_eq_hamEncode, getMsbD_hamEncode_data _ _ hr, getMsbD_gather,
    getD_bptcCol (by omega), Nat.add_right_comm]
  simp [hr]

/-- Rows 9 to 12 hold the parity bits of the columns. -/
theorem getMsbD_bptcCodeCols_parity {j : Nat} (hj : j < 4) (hc : c < 15) :
    (bptcCodeCols d).getMsbD (1 + 15 * (9 + j) + c) = parityOf (gather 9 (bptcCol c) d) (h13Eqs.getD j []) := by
  rw [getMsbD_bptcCodeCols d (by omega) hc, h13Encode_eq_hamEncode, getMsbD_hamEncode_parity _ _ hj]

end

/-! ## Every line of the encoded matrix is a codeword -/

theorem bptcCol_of_codeCols (d : BitVec 196) {c : Nat} (hc : c < 15) :
    hamSyndrome (gather 13 (bptcCol c) (bptcCodeCols d)) 9 h13Eqs = 0 := by
  have hcol : gather 13 (bptcCol c) (bptcCodeCols d) = hamEncode 4 h13Eqs (gather 9 (bptcCol c) d) := by
    refine eq_of_getMsbD fun r hr => ?_
    have hlt : r < 13 := hr
    rw [getMsbD_gather, getD_bptcCol hr, Nat.add_right_comm, getMsbD_bptcCodeCols d hr hc, h13Encode_eq_hamEncode]
    simp [hlt]
  rw [hcol, hamSyndrome_hamEncode h13Eqs_overDataBits]

theorem bptcRow_of_codeRows (d : BitVec 196) {r : Nat} (hr : r < 9) :
    hamSyndrome (gather 15 (bptcRow r) (bptcCodeRows d)) 11 h15Eqs = 0 := by
  have hrow : gather 15 (bptcRow r) (bptcCodeRows d) = hamEncode 4 h15Eqs (bits d (1 + 15 * r) 11) := by
    refine eq_of_getMsbD fun c hc => ?_
    have hlt : c < 15 := hc
    rw [getMsbD_gather, getD_bptcRow hc, getMsbD_bptcCodeRows d hr hc, h15Encode_eq_hamEncode]
    simp [hlt]
  rw [hrow, hamSyndrome_hamEncode h15Eqs_overDataBits]

/-- A sum of codewords, column by column a parity of the same rows, is a codeword. -/
theorem hamSyndrome_parity_of_rows {w k n : Nat} {eqs : List (List Nat)} (col : Nat → BitVec n) {is : List Nat}
    (h : ∀ i ∈ is, hamSyndrome (mkBits w fun c => (col c).getMsbD i) k eqs = 0) :
    hamSyndrome (mkBits w fun c => parityOf (col c) is) k eqs = 0 := by
  induction is with
  | nil =>
    have hzero : (mkBits w fun _ => false) = 0#w := eq_of_getMsbD fun i _ => by simp
    simp only [parityOf, hzero, hamSyndrome_zero]
  | cons i is ih =>
    simp only [parityOf, mkBits_xor, hamSyndrome_xor]
    rw [h i List.mem_cons_self, ih fun j hj => h j (List.mem_cons_of_mem i hj), Nat.xor_self]

theorem bptcRow_of_codeCols {d : BitVec 196}
    (hd : ∀ r < 9, hamSyndrome (gather 15 (bptcRow r) d) 11 h15Eqs = 0) {r : Nat} (hr : r < 13) :
    hamSyndrome (gather 15 (bptcRow r) (bptcCodeCols d)) 11 h15Eqs = 0 := by
  by_cases hdata : r < 9
  · rw [← hd r hdata]
    congr 1
    refine eq_of_getMsbD fun c hc => ?_
    rw [getMsbD_gather, getMsbD_gather, getD_bptcRow hc, getMsbD_bptcCodeCols_data d hdata hc]
  · obtain ⟨j, rfl⟩ : ∃ j, r = 9 + j := ⟨r - 9, by omega⟩
    have hj : j < 4 := by omega
    have hrow : gather 15 (bptcRow (9 + j)) (bptcCodeCols d) =
        mkBits 15 fun c => parityOf (gather 9 (bptcCol c) d) (h13Eqs.getD j []) := by
      refine eq_of_getMsbD fun c hc => ?_
      rw [getMsbD_gather, getMsbD_mkBits, getD_bptcRow hc, getMsbD_bptcCodeCols_parity d hj hc]
    rw [hrow]
    refine hamSyndrome_parity_of_rows _ fun i hi => ?_
    have hi9 : i < 9 := h13Eqs_overDataBits.2 _ (by
      rw [List.getD_eq_getElem _ _ (show j < h13Eqs.length from hj)]; exact List.getElem_mem _) i hi
    rw [← hd i hi9, gather_bptcRow]
    congr 1
    refine eq_of_getMsbD fun c hc => ?_
    rw [getMsbD_mkBits, getMsbD_mkBits, getMsbD_gather, getD_bptcCol (by omega), Nat.add_right_comm]
    simp [hi9]

theorem bptcRow_matrix (i : BitVec 96) {r : Nat} (hr : r < 13) :
    hamSyndrome (gather 15 (bptcRow r) (bptcMatrix i)) 11 h15Eqs = 0 :=
  bptcRow_of_codeCols (fun _ h => bptcRow_of_codeRows _ h) hr

theorem bptcCol_matrix (i : BitVec 96) {c : Nat} (hc : c < 15) :
    hamSyndrome (gather 13 (bptcCol c) (bptcMatrix i)) 9 h13Eqs = 0 := bptcCol_of_codeCols _ hc

/-! ## The information bits -/

/-- Coding leaves the information bits where they are placed. -/
theorem getMsbD_bptcMatrix_info (i : BitVec 96) {r c : Nat} (hr : r < 9) (hc : c < 11) :
    (bptcMatrix i).getMsbD (1 + 15 * r + c) = (bptcPlace i).getMsbD (1 + 15 * r + c) := by
  rw [bptcMatrix, getMsbD_bptcCodeCols_data _ hr (by omega), getMsbD_bptcCodeRows _ hr (by omega),
    h15Encode_eq_hamEncode, getMsbD_hamEncode_data _ _ hc, getMsbD_bits _ _ _ _ (by omega)]
  simp [hc]

theorem getMsbD_bptcMatrix_zero (i : BitVec 96) : (bptcMatrix i).getMsbD 0 = (bptcPlace i).getMsbD 0 := by
  simp [bptcMatrix, bptcCodeCols, bptcCodeRows]

theorem idxOf_bptcInfoPos : ∀ j < 96, bptcInfoPos.idxOf? (bptcInfoPos.getD j 0) = some j := by decide +kernel

theorem idxOf_bptcInfoPos_reserved : ∀ a < 4, bptcInfoPos.idxOf? a = none := by decide

theorem bptcInfoPos_inside : ∀ j < 96, bptcInfoPos.getD j 0 < 196 ∧ 0 < bptcInfoPos.getD j 0 ∧
    (bptcInfoPos.getD j 0 - 1) / 15 < 9 ∧ (bptcInfoPos.getD j 0 - 1) % 15 < 11 := by decide +kernel

theorem bptcInfoPos_first : ∀ j < 8, bptcInfoPos.getD j 0 = 4 + j := by decide

theorem bptcInfoPos_rows : ∀ r < 8, ∀ k < 11, bptcInfoPos.getD (8 + 11 * r + k) 0 = 1 + 15 * (r + 1) + k := by decide

theorem getMsbD_bptcMatrix_pos (i : BitVec 96) {j : Nat} (hj : j < 96) :
    (bptcMatrix i).getMsbD (bptcInfoPos.getD j 0) = i.getMsbD j := by
  obtain ⟨hlt, hpos, hrow, hcol⟩ := bptcInfoPos_inside j hj
  have hidx := idxOf_bptcInfoPos j hj
  generalize bptcInfoPos.getD j 0 = p at hlt hpos hrow hcol hidx ⊢
  have hp : p = 1 + 15 * ((p - 1) / 15) + (p - 1) % 15 := by omega
  rw [hp, getMsbD_bptcMatrix_info i hrow hcol, ← hp, bptcPlace, getMsbD_scatter, hidx]
  simp [hlt]

theorem getMsbD_bptcMatrix_reserved (i : BitVec 96) {a : Nat} (ha : a < 4) : (bptcMatrix i).getMsbD a = false := by
  have hplace : (bptcPlace i).getMsbD a = false := by
    rw [bptcPlace, getMsbD_scatter, idxOf_bptcInfoPos_reserved a ha]
    simp
  rcases Nat.eq_zero_or_pos a with rfl | hpos
  · rw [getMsbD_bptcMatrix_zero, hplace]
  · have hcell : a = 1 + 15 * 0 + (a - 1) := by omega
    rw [hcell, getMsbD_bptcMatrix_info i (by decide) (by omega), ← hcell, hplace]

theorem gather_bptcMatrix (i : BitVec 96) : gather 96 bptcInfoPos (bptcMatrix i) = i := by
  refine eq_of_getMsbD fun j hj => ?_
  rw [getMsbD_gather, getMsbD_bptcMatrix_pos i hj]
  simp [hj]

/-! ## The decoder does not see a codeword -/

/-- The line's error does not change when c is added to the matrix. -/
abbrev BlindTo (c : BitVec 196) (error : BitVec 196 → Option Nat) : Prop := ∀ d, error (d ^^^ c) = error d

section
variable {c : BitVec 196}

theorem lineError_blind {k n : Nat} {eqs : List (List Nat)} {table : List (Nat × Nat)} {line : List Nat}
    (h : hamSyndrome (gather n line c) k eqs = 0) : BlindTo c (lineError k eqs table n line) := fun d => by
  rw [lineError, lineError, gather_xor, hamSyndrome_xor, h, Nat.xor_zero]

theorem fixLine_xor {error : BitVec 196 → Option Nat} (h : BlindTo c error) (d : BitVec 196) (b : Bool) :
    fixLine error (d ^^^ c, b) = ((fixLine error (d, b)).1 ^^^ c, (fixLine error (d, b)).2) := by
  simp only [fixLine, h d]
  cases error d with
  | none => rfl
  | some p => simp only [flipBit_xor]

theorem foldl_fixLine_xor {line : Nat → BitVec 196 → Option Nat} {ls : List Nat} (h : ∀ l ∈ ls, BlindTo c (line l))
    (d : BitVec 196) (b : Bool) :
    ls.foldl (fun st l => fixLine (line l) st) (d ^^^ c, b) =
      ((ls.foldl (fun st l => fixLine (line l) st) (d, b)).1 ^^^ c,
        (ls.foldl (fun st l => fixLine (line l) st) (d, b)).2) := by
  induction ls generalizing d b with
  | nil => rfl
  | cons l ls ih =>
    rw [List.foldl_cons, List.foldl_cons, fixLine_xor (h l List.mem_cons_self),
      ih fun l' hl' => h l' (List.mem_cons_of_mem l hl')]

/-- Rows 0 to 8 and all columns of a matrix are codewords. -/
abbrev ProductWord (c : BitVec 196) : Prop :=
  (∀ r < 9, hamSyndrome (gather 15 (bptcRow r) c) 11 h15Eqs = 0) ∧
    ∀ k < 15, hamSyndrome (gather 13 (bptcCol k) c) 9 h13Eqs = 0

theorem bptcConsistent_iff (d : BitVec 196) : bptcConsistent d = true ↔ ProductWord d := by
  simp [bptcConsistent]

theorem rowError_blind (hc : ProductWord c) {r : Nat} (hr : r ∈ List.range 9) : BlindTo c (rowError r) :=
  lineError_blind (hc.1 r (List.mem_range.mp hr))

theorem colError_blind (hc : ProductWord c) {k : Nat} (hk : k ∈ List.range 15) : BlindTo c (colError k) :=
  lineError_blind (hc.2 k (List.mem_range.mp hk))

theorem bptcPass_xor (hc : ProductWord c) (d : BitVec 196) :
    bptcPass (d ^^^ c) = ((bptcPass d).1 ^^^ c, (bptcPass d).2) := by
  unfold bptcPass
  rw [foldl_fixLine_xor fun _ => rowError_blind hc, foldl_fixLine_xor fun _ => colError_blind hc]

theorem bptcPasses_xor (hc : ProductWord c) (n : Nat) (d : BitVec 196) :
    bptcPasses n (d ^^^ c) = bptcPasses n d ^^^ c := by
  induction n generalizing d with
  | zero => rfl
  | succ n ih =>
    simp only [bptcPasses, bptcPass_xor hc, ih]
    split <;> rfl

theorem bptcConsistent_xor (hc : ProductWord c) (d : BitVec 196) : bptcConsistent (d ^^^ c) = bptcConsistent d := by
  have hrows (r : Nat) (hr : r < 9) := hc.1 r hr
  have hcols (k : Nat) (hk : k < 15) := hc.2 k hk
  rw [Bool.eq_iff_iff, bptcConsistent_iff, bptcConsistent_iff]
  simp only [ProductWord, gather_xor, hamSyndrome_xor]
  refine and_congr (forall₂_congr fun r hr => ?_) (forall₂_congr fun k hk => ?_)
  · rw [hrows r hr, Nat.xor_zero]
  · rw [hcols k hk, Nat.xor_zero]

end

theorem dist_xor_right {w : Nat} (s t c : BitVec w) : dist (s ^^^ c) (t ^^^ c) = dist s t := by
  unfold dist
  congr 1
  rw [BitVec.xor_assoc, BitVec.xor_comm c, BitVec.xor_assoc, BitVec.xor_self, BitVec.xor_zero]

theorem productWord_bptcMatrix (i : BitVec 96) : ProductWord (bptcMatrix i) :=
  ⟨fun _ hr => bptcRow_matrix i (by omega), fun _ hk => bptcCol_matrix i hk⟩

theorem bptcDeinterleave_xor (x y : BitVec 196) :
    bptcDeinterleave (x ^^^ y) = bptcDeinterleave x ^^^ bptcDeinterleave y := by
  simp only [bptcDeinterleave, BitVec.getMsbD_xor]
  exact mkBits_xor 196 _ _

theorem outcomeOfChanges_ne_fail (n : Nat) : outcomeOfChanges n ≠ .fail := by
  unfold outcomeOfChanges
  split_ifs <;> nofun

theorem bptcDecode_xor_encode (x : BitVec 196) (i : BitVec 96) :
    bptcDecode (x ^^^ bptcEncode i) =
      if (bptcDecode x).2 = .fail then (0, .fail) else ((bptcDecode x).1 ^^^ i, (bptcDecode x).2) := by
  have hc := productWord_bptcMatrix i
  simp only [bptcDecode, bptcDeinterleave_xor, bptcDeinterleave_encode, bptcPasses_xor hc, bptcResult,
    bptcConsistent_xor hc, gather_xor, gather_bptcMatrix, dist_xor_right]
  split_ifs <;> simp_all [outcomeOfChanges_ne_fail]

/-! ## Single errors -/

section
variable {k n : Nat} {eqs : List (List Nat)} {table : List (Nat × Nat)} {line : List Nat}

theorem lineError_zero : lineError k eqs table n line 0 = none := by
  have hzero : gather n line (0 : BitVec 196) = 0#n := eq_of_getMsbD fun i _ => by simp
  rw [lineError, hzero, hamSyndrome_zero, if_pos rfl]

theorem gather_flipBit_outside {p : Nat} (hlen : line.length = n) (hp : p ∉ line) (hlt : p < 196) :
    gather n line (flipBit 0 p : BitVec 196) = 0#n := by
  refine eq_of_getMsbD fun i hi => ?_
  have hne : line.getD i 0 ≠ p := fun h => hp <| by
    rw [← h, List.getD_eq_getElem _ _ (hlen.symm ▸ hi)]
    exact List.getElem_mem _
  rw [getMsbD_gather, getMsbD_flipBit _ _ _ hlt, decide_eq_false hne]
  simp

theorem gather_flipBit_inside {i : Nat} (hlen : line.length = n) (hnodup : line.Nodup) (hi : i < n)
    (hlt : line.getD i 0 < 196) : gather n line (flipBit 0 (line.getD i 0) : BitVec 196) = flipBit 0 i := by
  refine eq_of_getMsbD fun j hj => ?_
  have hpos : line.getD j 0 = line.getD i 0 ↔ j = i := by
    rw [List.getD_eq_getElem _ _ (hlen.symm ▸ hj), List.getD_eq_getElem _ _ (hlen.symm ▸ hi), hnodup.getElem_inj_iff]
  rw [getMsbD_gather, getMsbD_flipBit _ _ _ hlt, getMsbD_flipBit _ _ _ hi]
  simp only [hj, hpos, decide_true, Bool.true_and]
  simp

theorem lineError_outside {p : Nat} (hlen : line.length = n) (hp : p ∉ line) (hlt : p < 196) :
    lineError k eqs table n line (flipBit 0 p) = none := by
  rw [lineError, gather_flipBit_outside hlen hp hlt, hamSyndrome_zero, if_pos rfl]

theorem lineError_inside {p : Nat} (hcols : DistinctColumns n k eqs) (htable : TableOfColumns n k eqs table)
    (hlen : line.length = n) (hnodup : line.Nodup) (hp : p ∈ line) (hlt : p < 196) :
    lineError k eqs table n line (flipBit 0 p) = some p := by
  obtain ⟨i, hi, hget⟩ := List.getElem_of_mem hp
  obtain rfl : line.getD i 0 = p := (List.getD_eq_getElem _ _ hi).trans hget
  rw [hlen] at hi
  rw [lineError, gather_flipBit_inside hlen hnodup hi hlt, ← hamColumn, if_neg (hamColumn_ne_zero hcols hi),
    htable.1 i hi, Option.map_some]

end

/-- A line that holds the flipped bit names it, and any other names none. -/
abbrev FindsFlip (p : Nat) (line : List Nat) (error : BitVec 196 → Option Nat) : Prop :=
  error 0 = none ∧ error (flipBit 0 p) = if p ∈ line then some p else none

theorem rowError_findsFlip {p : Nat} (hlt : p < 196) (r : Nat) : FindsFlip p (bptcRow r) (rowError r) := by
  have hlen : (bptcRow r).length = 15 := by simp [bptcRow]
  have hnodup : (bptcRow r).Nodup := List.nodup_range.map fun a b h => by simpa using h
  refine ⟨lineError_zero, ?_⟩
  split_ifs with hp
  · exact lineError_inside h15Eqs_distinctColumns h15Table_ofColumns hlen hnodup hp hlt
  · exact lineError_outside hlen hp hlt

theorem colError_findsFlip {p : Nat} (hlt : p < 196) (c : Nat) : FindsFlip p (bptcCol c) (colError c) := by
  have hlen : (bptcCol c).length = 13 := by simp [bptcCol]
  have hnodup : (bptcCol c).Nodup := List.nodup_range.map fun a b h => by simpa using h
  refine ⟨lineError_zero, ?_⟩
  split_ifs with hp
  · exact lineError_inside h13Eqs_distinctColumns h13Table_ofColumns hlen hnodup hp hlt
  · exact lineError_outside hlen hp hlt

section
variable {p : Nat} {line : Nat → List Nat} {error : Nat → BitVec 196 → Option Nat}

theorem foldl_fixLine_zero (h : ∀ l, FindsFlip p (line l) (error l)) (ls : List Nat) (b : Bool) :
    ls.foldl (fun st l => fixLine (error l) st) (0, b) = (0, b) := by
  induction ls with
  | nil => rfl
  | cons l ls ih => simpa only [List.foldl_cons, fixLine, (h l).1] using ih

/-- The first line that holds the flipped bit flips it back. -/
theorem foldl_fixLine_flip (h : ∀ l, FindsFlip p (line l) (error l)) (ls : List Nat) (b : Bool) :
    ls.foldl (fun st l => fixLine (error l) st) (flipBit 0 p, b) =
      if ∃ l ∈ ls, p ∈ line l then (0, true) else (flipBit 0 p, b) := by
  induction ls with
  | nil => simp
  | cons l ls ih =>
    by_cases hl : p ∈ line l
    · have hfix : fixLine (error l) (flipBit 0 p, b) = (0, true) := by
        simp only [fixLine, (h l).2, if_pos hl, flipBit_flipBit]
      rw [List.foldl_cons, hfix, foldl_fixLine_zero h, if_pos ⟨l, List.mem_cons_self, hl⟩]
    · have hfix : fixLine (error l) (flipBit 0 p, b) = (flipBit 0 p, b) := by
        simp only [fixLine, (h l).2, if_neg hl]
      rw [List.foldl_cons, hfix, ih]
      simp [hl]

end

theorem bptcPass_zero : bptcPass 0 = (0, false) := by
  rw [bptcPass, foldl_fixLine_zero (rowError_findsFlip (p := 0) (by decide)),
    foldl_fixLine_zero (colError_findsFlip (p := 0) (by decide))]

theorem mem_bptcCol {p : Nat} (h0 : p ≠ 0) (hlt : p < 196) : ∃ c ∈ List.range 15, p ∈ bptcCol c := by
  refine ⟨(p - 1) % 15, List.mem_range.mpr (by omega), List.mem_map.mpr ⟨(p - 1) / 15, List.mem_range.mpr ?_, ?_⟩⟩ <;>
    omega

theorem bptcPass_flip {p : Nat} (h0 : p ≠ 0) (hlt : p < 196) : bptcPass (flipBit 0 p) = (0, true) := by
  rw [bptcPass, foldl_fixLine_flip (rowError_findsFlip hlt)]
  split_ifs
  · exact foldl_fixLine_zero (colError_findsFlip hlt) _ _
  · rw [foldl_fixLine_flip (colError_findsFlip hlt), if_pos (mem_bptcCol h0 hlt)]

/-- Position 0 lies in no line. -/
theorem bptcPass_flip_zero : bptcPass (flipBit 0 0) = (flipBit 0 0, false) := by
  have hrow : ¬ ∃ r ∈ List.range 9, 0 ∈ bptcRow r := by simp [bptcRow]
  have hcol : ¬ ∃ c ∈ List.range 15, 0 ∈ bptcCol c := by simp [bptcCol]
  rw [bptcPass, foldl_fixLine_flip (rowError_findsFlip (by decide)), if_neg hrow,
    foldl_fixLine_flip (colError_findsFlip (by decide)), if_neg hcol]

theorem productWord_zero : ProductWord 0 := by
  have hzero (n : Nat) (line : List Nat) : gather n line (0 : BitVec 196) = 0#n := eq_of_getMsbD fun i _ => by simp
  exact ⟨fun r _ => by rw [hzero, hamSyndrome_zero], fun k _ => by rw [hzero, hamSyndrome_zero]⟩

theorem productWord_flip_zero : ProductWord (flipBit 0 0) := by
  refine ⟨fun r _ => ?_, fun k _ => ?_⟩
  · rw [gather_flipBit_outside (by simp [bptcRow]) (by simp [bptcRow]) (by decide), hamSyndrome_zero]
  · rw [gather_flipBit_outside (by simp [bptcCol]) (by simp [bptcCol]) (by decide), hamSyndrome_zero]

theorem bptcPasses_of_unchanged {d : BitVec 196} (h : bptcPass d = (d, false)) (n : Nat) : bptcPasses n d = d := by
  cases n with
  | zero => rfl
  | succ n => simp [bptcPasses, h]

theorem bptcDeinterleave_flip {k : Nat} (hk : k < 196) :
    bptcDeinterleave (flipBit 0 k) = flipBit 0 (k * 13 % 196) := by
  refine eq_of_getMsbD fun a ha => ?_
  have hpos : a * 181 % 196 = k ↔ a = k * 13 % 196 := by omega
  rw [bptcDeinterleave, getMsbD_mkBits, getMsbD_flipBit _ _ _ hk, getMsbD_flipBit _ _ _ (by omega)]
  simp [ha, hpos]

theorem bptcInfoPos_length : bptcInfoPos.length = 96 := by decide

theorem gather_info_zero : gather 96 bptcInfoPos (0 : BitVec 196) = 0 := eq_of_getMsbD fun i _ => by simp

theorem bptcDecode_zero : bptcDecode 0 = (0, outcomeOfChanges 0) := by
  have hzero : bptcDeinterleave 0 = 0 := eq_of_getMsbD fun i _ => by simp [bptcDeinterleave]
  rw [bptcDecode, hzero, bptcPasses_of_unchanged bptcPass_zero, bptcResult,
    if_pos ((bptcConsistent_iff _).mpr productWord_zero), dist_self, gather_info_zero]

theorem bptcDecode_flip {k : Nat} (h0 : k ≠ 0) (hk : k < 196) :
    bptcDecode (flipBit 0 k) = (0, outcomeOfChanges 1) := by
  have hpos : k * 13 % 196 ≠ 0 := by omega
  have hlt : k * 13 % 196 < 196 := by omega
  have hpasses : bptcPasses bptcMaxPasses (flipBit 0 (k * 13 % 196)) = 0 := by
    rw [bptcMaxPasses, bptcPasses, bptcPass_flip hpos hlt, if_pos rfl]
    exact bptcPasses_of_unchanged bptcPass_zero 4
  rw [bptcDecode, bptcDeinterleave_flip hk, hpasses, bptcResult,
    if_pos ((bptcConsistent_iff _).mpr productWord_zero), dist_flipBit _ hlt, gather_info_zero]

/-- The bit that no line checks carries no information either. -/
theorem bptcDecode_flip_zero : bptcDecode (flipBit 0 0) = (0, outcomeOfChanges 0) := by
  have hgather : gather 96 bptcInfoPos (flipBit 0 0 : BitVec 196) = 0 :=
    gather_flipBit_outside bptcInfoPos_length (by decide) (by decide)
  rw [bptcDecode, bptcDeinterleave_flip (by decide), bptcPasses_of_unchanged bptcPass_flip_zero, bptcResult,
    if_pos ((bptcConsistent_iff _).mpr productWord_flip_zero), dist_self, hgather]

/-- The error pattern alone decides. -/
theorem bptcDecode_of_error {x : BitVec 196} {m : Nat} (hx : bptcDecode x = (0, outcomeOfChanges m)) (i : BitVec 96) :
    bptcDecode (x ^^^ bptcEncode i) = (i, outcomeOfChanges m) := by
  rw [bptcDecode_xor_encode, hx, if_neg (outcomeOfChanges_ne_fail m)]
  exact congrArg (·, _) BitVec.zero_xor

theorem bptcDecode_encode (i : BitVec 96) : bptcDecode (bptcEncode i) = (i, outcomeOfChanges 0) := by
  rw [← bptcDecode_of_error bptcDecode_zero i]
  exact congrArg bptcDecode BitVec.zero_xor.symm

theorem flipBit_eq_error_xor {w : Nat} (s : BitVec w) (k : Nat) : flipBit s k = flipBit 0 k ^^^ s := by
  rw [flipBit_eq_xor, BitVec.xor_comm]

end Sys2Proof.Machine

namespace Sys2Proof.Claims

open Sys2Proof.Machine

/-- Settles O28: rows 9 to 12 are sums of the coded rows above them. -/
theorem bptcEncWritesTheProductCodeword : Obligations.BptcEncWritesTheProductCodeword := by
  intro s
  obtain ⟨hout, hresult⟩ := dataCommandState_delivers (bptcEncode (dataInBits 96 s)) clearedResult s
  have hin (j : Nat) (hj : j < 96) := getMsbD_dataInBits (by decide) hj s
  have hbit (a : Nat) (ha : a < 196) : (loadBuf 256 .dataOut
      (dataCommandState (bptcEncode (dataInBits 96 s)) clearedResult s)).getMsbD (a * 181 % 196) =
        (bptcMatrix (dataInBits 96 s)).getMsbD a := by
    rw [hout, getMsbD_padTo _ _ _ (by decide), bptcEncode_eq, getMsbD_bptcInterleave _ _ ha]
  refine ⟨_, encoderRule_runs bptcEncode s, dataCommandState_frame _ _ s, hresult, _, _, _, rfl, rfl, rfl,
    fun a ha => ?_, fun j hj => ?_, fun r k h1 h8 hk => ?_, fun r hr => ?_, fun c hc => ?_, fun k hk => ?_⟩
  · rw [hbit a (by omega), getMsbD_bptcMatrix_reserved _ ha]
  · rw [hbit _ (by omega), ← bptcInfoPos_first j hj, getMsbD_bptcMatrix_pos _ (by omega), hin j (by omega)]
  · obtain ⟨r, rfl⟩ : ∃ m, r = m + 1 := ⟨r - 1, by omega⟩
    rw [hbit _ (by omega), ← bptcInfoPos_rows r (by omega) k hk, getMsbD_bptcMatrix_pos _ (by omega),
      hin _ (by omega), Nat.add_sub_cancel]
  · refine Eq.trans (congrArg (hamSyndrome · 11 h15Eqs) (eq_of_getMsbD fun c hc => ?_))
      (bptcRow_matrix (dataInBits 96 s) hr)
    rw [gather_bptcRow, getMsbD_mkBits, getMsbD_mkBits, hbit _ (by omega)]
  · refine Eq.trans (congrArg (hamSyndrome · 9 h13Eqs) (eq_of_getMsbD fun r hr => ?_))
      (bptcCol_matrix (dataInBits 96 s) hc)
    rw [gather_bptcCol, getMsbD_mkBits, getMsbD_mkBits, hbit _ (by omega)]
  · rw [hout, getMsbD_padTo _ _ _ (by decide), BitVec.getMsbD_of_ge _ _ hk]

/-- Settles O29: no line's syndrome changes when a codeword is added. -/
theorem bptcDecDependsOnTheErrorAlone : Obligations.BptcDecDependsOnTheErrorAlone := by
  intro x i
  rw [bptcDecode_xor_encode]
  split_ifs with h
  · exact ⟨h.symm, fun hne => absurd h hne⟩
  · exact ⟨rfl, fun _ => rfl⟩

/-- Settles O30: by O29 the single errors around the zero codeword decide. -/
theorem bptcDecCorrectsEverySingleError : Obligations.BptcDecCorrectsEverySingleError := fun s => by
  obtain ⟨t, hexec, hframe, -, hdata, -⟩ := decoder_delivers bptcDecode s
  refine ⟨t, hexec, hframe, fun i => ⟨fun hw => hdata i 0 (by decide) ?_, fun hw => hdata i 0 (by decide) ?_,
    fun k h1 hk hw => hdata i 1 (by decide) ?_⟩⟩
  · rw [hw, bptcDecode_encode]
  · rw [hw, flipBit_eq_error_xor, bptcDecode_of_error bptcDecode_flip_zero]
  · rw [hw, flipBit_eq_error_xor, bptcDecode_of_error (bptcDecode_flip (by omega) hk)]

end Sys2Proof.Claims
end

section
/-! PROOFS. The embedded LC code (44_fec_bptc.md R410 to R415): the encoded matrix, what the decoder's row and column
corrections leave, and single errors. -/

namespace Sys2Proof.Machine

open Sys2Proof.Claims

/-! ## Weight and permutations -/

theorem onesBelow_eq_sum {w : Nat} (s : BitVec w) (k : Nat) :
    onesBelow s k = ∑ i ∈ Finset.range k, (s.getLsbD i).toNat := by
  induction k with
  | zero => rfl
  | succ k ih => rw [onesBelow, ih, Finset.sum_range_succ]

theorem wt_eq_sum {w : Nat} (s : BitVec w) : wt s = ∑ i ∈ Finset.range w, (s.getMsbD i).toNat := by
  rw [wt, onesBelow_eq_sum, ← Finset.sum_range_reflect]
  refine Finset.sum_congr rfl fun i hi => ?_
  rw [BitVec.getMsbD_eq_getLsbD]
  simp [Finset.mem_range.mp hi]

/-- Bits taken in another order have the same weight. -/
theorem wt_mkBits_permuted {w : Nat} (s : BitVec w) {f g : Nat → Nat} (hf : ∀ i < w, f i < w) (hg : ∀ i < w, g i < w)
    (hgf : ∀ i < w, g (f i) = i) (hfg : ∀ i < w, f (g i) = i) : wt (mkBits w fun i => s.getMsbD (f i)) = wt s := by
  rw [wt_eq_sum, wt_eq_sum]
  refine Finset.sum_nbij' f g ?_ ?_ ?_ ?_ ?_ <;> simp only [Finset.mem_range]
  · exact hf
  · exact hg
  · exact hgf
  · exact hfg
  · exact fun i hi => by simp [hi]

theorem embMatrix_xor (d e : BitVec 128) : embMatrix (d ^^^ e) = embMatrix d ^^^ embMatrix e := by
  simp only [embMatrix, BitVec.getMsbD_xor]
  exact mkBits_xor 128 _ _

theorem dist_embMatrix (d e : BitVec 128) : dist (embMatrix d) (embMatrix e) = dist d e := by
  rw [dist, ← embMatrix_xor]
  exact wt_mkBits_permuted (g := fun k => k % 8 * 16 + k / 8) _ (fun i hi => by omega) (fun i hi => by omega)
    (fun i hi => by omega) fun i hi => by omega

theorem embMatrix_flipBit {k : Nat} (e : BitVec 128) (hk : k < 128) :
    embMatrix (flipBit e k) = flipBit (embMatrix e) (k % 8 * 16 + k / 8) := by
  refine eq_of_getMsbD fun p hp => ?_
  have hpos : p % 16 * 8 + p / 16 = k ↔ p = k % 8 * 16 + k / 8 := by omega
  rw [embMatrix, getMsbD_mkBits, getMsbD_flipBit _ _ _ hk, getMsbD_flipBit _ _ _ (by omega), embMatrix, getMsbD_mkBits]
  simp [hp, hpos]

/-! ## Rows and columns of the matrix -/

/-- Row r of the matrix. -/
abbrev embRow (m : BitVec 128) (r : Nat) : BitVec 16 := bits m (16 * r) 16

/-- Column c, all eight rows, has odd parity. -/
abbrev embOddCol (m : BitVec 128) (c : Nat) : Bool := parityOf m (embCol c) ^^ m.getMsbD (112 + c)

theorem getMsbD_embRow (m : BitVec 128) {r c : Nat} (hr : r < 8) (hc : c < 16) :
    (embRow m r).getMsbD c = m.getMsbD (16 * r + c) := by
  rw [getMsbD_bits _ _ _ _ (by omega)]
  simp [hc]

theorem mem_embBadCols (m : BitVec 128) (c : Nat) : c ∈ embBadCols m ↔ c < 16 ∧ embOddCol m c = true := by
  simp [embBadCols]

theorem embBadCols_eq_nil (m : BitVec 128) : embBadCols m = [] ↔ ∀ c < 16, embOddCol m c = false := by
  simp [List.eq_nil_iff_forall_not_mem, mem_embBadCols]

theorem embCol_lt {c : Nat} (hc : c < 16) : ∀ i ∈ embCol c, i < 112 := by
  simp only [embCol, List.mem_map, List.mem_range]
  rintro i ⟨r, hr, rfl⟩
  omega

/-- Columns are even and rows are codewords, and the checksum is that of the LC: what `emb_encode` writes. -/
structure EmbWord (m : BitVec 128) : Prop where
  rows : ∀ r < 7, hamSyndrome (embRow m r) 11 h16Eqs = 0
  cols : ∀ c < 16, embOddCol m c = false
  checksum : gather 5 embCsPos m = BitVec.ofNat 5 (cs5Of (gather 72 embInfoPos m))

/-! ## The encoded matrix -/

/-- The codeword in matrix form. -/
def embCodeword (l : BitVec 72) : BitVec 128 := embCodeCols (embCodeRows (embPlace l))

theorem embEncode_eq (l : BitVec 72) : embEncode l = embTransmit (embCodeword l) := rfl

theorem embMatrix_encode (l : BitVec 72) : embMatrix (embEncode l) = embCodeword l := by
  rw [embEncode_eq, embMatrix_transmit]

section
variable (l : BitVec 72)

theorem embRow_codeword {r : Nat} (hr : r < 7) :
    embRow (embCodeword l) r = hamEncode 5 h16Eqs (bits (embPlace l) (16 * r) 11) := by
  refine eq_of_getMsbD fun c hc => ?_
  have hrow : (16 * r + c) / 16 = r := by omega
  have hcol : (16 * r + c) % 16 = c := by omega
  have hlt : 16 * r + c < 112 := by omega
  have hmat : 16 * r + c < 128 := by omega
  rw [getMsbD_embRow _ (by omega) hc, embCodeword, embCodeCols, getMsbD_mkBits, if_pos hlt, embCodeRows, getMsbD_mkBits,
    if_pos hlt, hrow, hcol, h16Encode_eq_hamEncode]
  simp [hmat]

theorem embOddCol_codeword {c : Nat} (hc : c < 16) : embOddCol (embCodeword l) c = false := by
  have hpast : ¬ 112 + c < 112 := by omega
  have hmat : 112 + c < 128 := by omega
  have hparity : parityOf (embCodeword l) (embCol c) = parityOf (embCodeRows (embPlace l)) (embCol c) :=
    parityOf_congr fun i hi => by
      have hlt := embCol_lt hc i hi
      have hmat : i < 128 := by omega
      rw [embCodeword, embCodeCols, getMsbD_mkBits, if_pos hlt]
      simp [hmat]
  rw [embOddCol, hparity, embCodeword, embCodeCols, getMsbD_mkBits, if_neg hpast, Nat.add_sub_cancel_left]
  simp [hmat]

theorem getMsbD_embCodeword_data {r c : Nat} (hr : r < 7) (hc : c < 11) :
    (embCodeword l).getMsbD (16 * r + c) = (embPlace l).getMsbD (16 * r + c) := by
  rw [← getMsbD_embRow _ (by omega) (by omega), embRow_codeword l hr, getMsbD_hamEncode_data _ _ hc,
    getMsbD_bits _ _ _ _ (by omega)]
  simp [hc]

end

/-! ## Where the LC and the checksum stand -/

/-- A position among the data bits of rows 0 to 6. -/
abbrev EmbDataPos (p : Nat) : Prop := p / 16 < 7 ∧ p % 16 < 11

theorem embInfoPos_placed : ∀ j < 72, EmbDataPos (embInfoPos.getD j 0) ∧
    embInfoPos.idxOf? (embInfoPos.getD j 0) = some j ∧ embCsPos.idxOf? (embInfoPos.getD j 0) = none := by
  decide +kernel

theorem embCsPos_placed : ∀ j < 5, EmbDataPos (embCsPos.getD j 0) ∧
    embCsPos.idxOf? (embCsPos.getD j 0) = some j ∧ embInfoPos.idxOf? (embCsPos.getD j 0) = none := by
  decide +kernel

/-- The LC and the checksum fill the data bits of the rows. -/
theorem embDataPos_cases : ∀ r < 7, ∀ c < 11,
    (∃ j < 72, 16 * r + c = embInfoPos.getD j 0) ∨ ∃ j < 5, 16 * r + c = embCsPos.getD j 0 := by
  decide +kernel

theorem embInfoPos_long : ∀ r < 2, ∀ c < 11, embInfoPos.getD (11 * r + c) 0 = 16 * r + c := by decide

theorem embInfoPos_short : ∀ r < 5, ∀ c < 10, embInfoPos.getD (22 + 10 * r + c) 0 = 16 * (r + 2) + c := by decide

theorem embCsPos_eq : ∀ j < 5, embCsPos.getD j 0 = 42 + 16 * j := by decide

section
variable (l : BitVec 72) {j : Nat}

theorem getMsbD_embPlace_info (hj : j < 72) : (embPlace l).getMsbD (embInfoPos.getD j 0) = l.getMsbD j := by
  obtain ⟨⟨hrow, -⟩, hinfo, hcs⟩ := embInfoPos_placed j hj
  have hlt : embInfoPos.getD j 0 < 128 := by omega
  rw [embPlace, BitVec.getMsbD_or, getMsbD_scatter, getMsbD_scatter, hinfo, hcs]
  simp only [hlt, decide_true, Bool.true_and, Bool.or_false]

theorem getMsbD_embPlace_cs (hj : j < 5) :
    (embPlace l).getMsbD (embCsPos.getD j 0) = (BitVec.ofNat 5 (cs5Of l)).getMsbD j := by
  obtain ⟨⟨hrow, -⟩, hcs, hinfo⟩ := embCsPos_placed j hj
  have hlt : embCsPos.getD j 0 < 128 := by omega
  rw [embPlace, BitVec.getMsbD_or, getMsbD_scatter, getMsbD_scatter, hinfo, hcs]
  simp only [hlt, decide_true, Bool.true_and, Bool.false_or]

theorem getMsbD_embCodeword_of_dataPos {p : Nat} (hp : EmbDataPos p) :
    (embCodeword l).getMsbD p = (embPlace l).getMsbD p := by
  have hcell : p = 16 * (p / 16) + p % 16 := by omega
  rw [hcell, getMsbD_embCodeword_data l hp.1 hp.2]

theorem getMsbD_embCodeword_info (hj : j < 72) : (embCodeword l).getMsbD (embInfoPos.getD j 0) = l.getMsbD j := by
  rw [getMsbD_embCodeword_of_dataPos l (embInfoPos_placed j hj).1, getMsbD_embPlace_info l hj]

theorem getMsbD_embCodeword_cs (hj : j < 5) :
    (embCodeword l).getMsbD (embCsPos.getD j 0) = (BitVec.ofNat 5 (cs5Of l)).getMsbD j := by
  rw [getMsbD_embCodeword_of_dataPos l (embCsPos_placed j hj).1, getMsbD_embPlace_cs l hj]

theorem gather_info_embCodeword : gather 72 embInfoPos (embCodeword l) = l := by
  refine eq_of_getMsbD fun j hj => ?_
  rw [getMsbD_gather, getMsbD_embCodeword_info l hj]
  simp [hj]

theorem embWord_codeword : EmbWord (embCodeword l) where
  rows r hr := by rw [embRow_codeword l hr, hamSyndrome_hamEncode h16Eqs_overDataBits]
  cols c hc := embOddCol_codeword l hc
  checksum := by
    refine eq_of_getMsbD fun j hj => ?_
    rw [getMsbD_gather, getMsbD_embCodeword_cs l hj, gather_info_embCodeword]
    simp [hj]

end

/-! ## The encoded matrices are the only ones that pass every check -/

section
variable {m : BitVec 128}

theorem EmbWord.getMsbD_data (h : EmbWord m) {r c : Nat} (hr : r < 7) (hc : c < 11) :
    m.getMsbD (16 * r + c) = (embPlace (gather 72 embInfoPos m)).getMsbD (16 * r + c) := by
  obtain ⟨j, hj, hpos⟩ | ⟨j, hj, hpos⟩ := embDataPos_cases r hr c hc
  · rw [hpos, getMsbD_embPlace_info _ hj, getMsbD_gather]
    simp [hj]
  · rw [hpos, getMsbD_embPlace_cs _ hj, ← h.checksum, getMsbD_gather]
    simp [hj]

theorem EmbWord.row_eq (h : EmbWord m) {r : Nat} (hr : r < 7) :
    embRow m r = embRow (embCodeword (gather 72 embInfoPos m)) r := by
  have hdata : bits (embRow m r) 0 11 = bits (embPlace (gather 72 embInfoPos m)) (16 * r) 11 := by
    refine eq_of_getMsbD fun c hc => ?_
    rw [getMsbD_bits (embPlace _) _ _ _ (by omega), ← h.getMsbD_data hr hc, getMsbD_bits _ 0 _ _ (by decide),
      Nat.zero_add, getMsbD_embRow _ (by omega) (by omega)]
  rw [embRow_codeword _ hr, ← hdata]
  exact (hamEncode_bits_of_hamSyndrome_eq_zero h16Eqs_overDataBits (h.rows r hr)).symm

theorem EmbWord.eq_embCodeword (h : EmbWord m) : m = embCodeword (gather 72 embInfoPos m) := by
  have hrows (p : Nat) (hp : p < 112) : m.getMsbD p = (embCodeword (gather 72 embInfoPos m)).getMsbD p := by
    have hcell : p = 16 * (p / 16) + p % 16 := by omega
    rw [hcell, ← getMsbD_embRow m (by omega) (by omega), h.row_eq (by omega), getMsbD_embRow _ (by omega) (by omega)]
  refine eq_of_getMsbD fun p hp => ?_
  by_cases hrow : p < 112
  · exact hrows p hrow
  · obtain ⟨c, rfl⟩ : ∃ c, p = 112 + c := ⟨p - 112, by omega⟩
    have hc : c < 16 := by omega
    have hm := h.cols c hc
    have hcode := embOddCol_codeword (gather 72 embInfoPos m) hc
    rw [embOddCol, bne_eq_false_iff_eq] at hm hcode
    rw [← hm, ← hcode]
    exact parityOf_congr fun i hi => hrows i (embCol_lt hc i hi)

end

/-! ## The row corrections -/

section
variable (m : BitVec 128) {r r' : Nat}

theorem embRow_setBits (v : BitVec 16) (hr : r < 8) :
    embRow (setBits m (16 * r') v) r = if r = r' then v else embRow m r := by
  refine eq_of_getMsbD fun c hc => ?_
  have hlt : 16 * r + c < 128 := by omega
  rw [getMsbD_embRow _ hr hc, getMsbD_setBits]
  by_cases h : r = r'
  · subst h
    simp [hlt, hc]
  · have hout : ¬ (16 * r' ≤ 16 * r + c ∧ 16 * r + c < 16 * r' + 16) := by omega
    rw [if_neg hout, if_neg h, getMsbD_embRow _ hr hc]
    simp [hlt]

end

theorem hamSyndrome_of_hamCorrect_ok {w k : Nat} {eqs : List (List Nat)} {table : List (Nat × Nat)} {c : BitVec w}
    (h : (hamCorrect k eqs table c).2 = .ok) : hamSyndrome c k eqs = 0 := by
  by_contra h0
  cases hfind : table.lookup (hamSyndrome c k eqs) <;> simp [hamCorrect, h0, hfind] at h

/-- The rows in the list become codewords, and the others stay. -/
theorem embRow_of_embFixRows {rs : List Nat} {m m' : BitVec 128} {fixed fixed' : Bool} (hnodup : rs.Nodup)
    (hlt : ∀ r ∈ rs, r < 8) (h : embFixRows rs m fixed = some (m', fixed')) :
    (∀ r ∈ rs, hamSyndrome (embRow m' r) 11 h16Eqs = 0) ∧ ∀ r < 8, r ∉ rs → embRow m' r = embRow m r := by
  induction rs generalizing m fixed with
  | nil =>
    obtain ⟨rfl, rfl⟩ : m = m' ∧ fixed = fixed' := by simpa [embFixRows] using h
    exact ⟨nofun, fun _ _ _ => rfl⟩
  | cons r rs ih =>
    obtain ⟨hnot, hnodup⟩ := List.nodup_cons.mp hnodup
    have hr8 := hlt r List.mem_cons_self
    have hrest (s : Nat) (hs : s ∈ rs) := hlt s (List.mem_cons_of_mem r hs)
    have hcorrect := hamSyndrome_hamCorrect (c := embRow m r) h16Table_ofColumns
    rw [embFixRows] at h
    split at h
    next hok =>
      obtain ⟨hrows, hsame⟩ := ih hnodup hrest h
      have hzero := hamSyndrome_of_hamCorrect_ok hok
      refine ⟨List.forall_mem_cons.mpr ⟨by rw [hsame r hr8 hnot, hzero], hrows⟩, fun s hs hsr => ?_⟩
      exact hsame s hs fun hmem => hsr (List.mem_cons_of_mem r hmem)
    next hone =>
      obtain ⟨hrows, hsame⟩ := ih hnodup hrest h
      have hzero := hcorrect (by rw [hone]; nofun)
      refine ⟨List.forall_mem_cons.mpr ⟨?_, hrows⟩, fun s hs hsr => ?_⟩
      · rw [hsame r hr8 hnot, embRow_setBits m _ hr8, if_pos rfl, hzero]
      · obtain ⟨hne, hmem⟩ := not_or.mp (mt List.mem_cons.mpr hsr)
        rw [hsame s hs hmem, embRow_setBits m _ hs, if_neg hne]
    next => cases h

/-! ## The column correction -/

section
variable (m : BitVec 128) {r c k : Nat}

theorem embRow_flipBit_last (hr : r < 7) (hk : k < 16) : embRow (flipBit m (112 + k)) r = embRow m r := by
  refine eq_of_getMsbD fun c hc => ?_
  have hne : 16 * r + c ≠ 112 + k := by omega
  rw [getMsbD_embRow _ (by omega) hc, getMsbD_embRow _ (by omega) hc, getMsbD_flipBit _ _ _ (by omega)]
  simp [hne]

/-- A flip in row 7 turns its own column over and no other. -/
theorem embOddCol_flipBit_last (hc : c < 16) (hk : k < 16) :
    embOddCol (flipBit m (112 + k)) c = (embOddCol m c ^^ decide (c = k)) := by
  have hparity : parityOf (flipBit m (112 + k)) (embCol c) = parityOf m (embCol c) := parityOf_congr fun i hi => by
    have hne : i ≠ 112 + k := by have := embCol_lt hc i hi; omega
    rw [getMsbD_flipBit _ _ _ (by omega)]
    simp [hne]
  rw [embOddCol, hparity, getMsbD_flipBit _ _ _ (by omega)]
  simp

end

/-- What the column check passes on has the rows it was given and no odd column. -/
theorem embFixCols_some {m m' : BitVec 128} {fixed : Bool} (h : embFixCols m fixed = some m') :
    (∀ r < 7, embRow m' r = embRow m r) ∧ ∀ c < 16, embOddCol m' c = false := by
  unfold embFixCols at h
  split at h
  next hnil =>
    obtain rfl : m = m' := by simpa using h
    exact ⟨fun _ _ => rfl, (embBadCols_eq_nil m).mp hnil⟩
  next k hone =>
    obtain rfl : flipBit m (112 + k) = m' := by cases fixed <;> simp_all
    have hmem (c : Nat) : c = k ↔ c < 16 ∧ embOddCol m c = true := by
      rw [← mem_embBadCols, hone, List.mem_singleton]
    have hk := ((hmem k).mp rfl).1
    refine ⟨fun r hr => embRow_flipBit_last m hr hk, fun c hc => ?_⟩
    rw [embOddCol_flipBit_last m hc hk]
    cases hodd : embOddCol m c <;> simp [hmem, hodd, hc]
  next => cases h

/-! ## Soundness -/

/-- What the decoder accepts is the nearest codeword it reports. -/
theorem dist_of_embDecode {e : BitVec 128} {l : BitVec 72} {o : DecOutcome} (h : embDecode e = (l, o))
    (ho : o ≠ .fail) : o = outcomeOfChanges (dist e (embEncode l)) := by
  unfold embDecode at h
  split at h
  next => cases h; exact absurd rfl ho
  next m fixed hrows =>
    split at h
    next => cases h; exact absurd rfl ho
    next m' hcols =>
      obtain ⟨hsyn, -⟩ := embRow_of_embFixRows List.nodup_range (by simp; omega) hrows
      obtain ⟨hsame, hodd⟩ := embFixCols_some hcols
      unfold embResult at h
      split_ifs at h with hcs
      · have hword : EmbWord m' := {
          rows := fun r hr => by rw [hsame r hr, hsyn r (List.mem_range.mpr hr)]
          cols := hodd
          checksum := by rw [← hcs, BitVec.ofNat_toNat, BitVec.setWidth_eq] }
        obtain ⟨rfl, rfl⟩ := Prod.mk.inj h
        rw [← dist_embMatrix e, embMatrix_encode, ← hword.eq_embCodeword, dist_comm]
      · cases h
        exact absurd rfl ho

/-! ## Codewords and single errors -/

/-- Rows that are codewords stay. -/
theorem embFixRows_of_rows {rs : List Nat} {m : BitVec 128} (h : ∀ r ∈ rs, hamSyndrome (embRow m r) 11 h16Eqs = 0)
    (fixed : Bool) : embFixRows rs m fixed = some (m, fixed) := by
  induction rs with
  | nil => rfl
  | cons r rs ih =>
    rw [embFixRows, hamCorrect_of_zero (h r List.mem_cons_self)]
    exact ih fun s hs => h s (List.mem_cons_of_mem r hs)

section
variable (m : BitVec 128) {p r : Nat}

theorem embRow_flipBit (hp : p < 128) (hr : r < 8) :
    embRow (flipBit m p) r = if p / 16 = r then flipBit (embRow m r) (p % 16) else embRow m r := by
  refine eq_of_getMsbD fun c hc => ?_
  rw [getMsbD_embRow _ hr hc, getMsbD_flipBit _ _ _ hp]
  split_ifs with hrow
  · have hpos : 16 * r + c = p ↔ c = p % 16 := by omega
    rw [getMsbD_flipBit _ _ _ (by omega), getMsbD_embRow _ hr hc]
    simp [hpos]
  · have hne : 16 * r + c ≠ p := by omega
    rw [getMsbD_embRow _ hr hc]
    simp [hne]

theorem setBits_embRow_flipBit (hp : p < 128) : setBits (flipBit m p) (16 * (p / 16)) (embRow m (p / 16)) = m := by
  refine eq_of_getMsbD fun i hi => ?_
  rw [getMsbD_setBits, getMsbD_flipBit _ _ _ hp]
  split_ifs with hrow
  · rw [getMsbD_embRow _ (by omega) (by omega), Nat.add_sub_cancel' hrow.1]
    simp [hi]
  · have hne : i ≠ p := by omega
    simp [hi, hne]

variable {m}

/-- A single error in one of the listed rows is corrected there. -/
theorem embFixRows_flipBit (h : ∀ r < 7, hamSyndrome (embRow m r) 11 h16Eqs = 0) (hp : p < 128) {rs : List Nat}
    (hlt : ∀ r ∈ rs, r < 7) (fixed : Bool) : embFixRows rs (flipBit m p) fixed =
      if p / 16 ∈ rs then some (m, true) else some (flipBit m p, fixed) := by
  induction rs with
  | nil => rfl
  | cons r rs ih =>
    have hr := hlt r List.mem_cons_self
    have hrest (s : Nat) (hs : s ∈ rs) := hlt s (List.mem_cons_of_mem r hs)
    by_cases hrow : p / 16 = r
    · have hsyn : hamSyndrome (flipBit (embRow m r) (p % 16)) 11 h16Eqs = hamColumn 16 11 h16Eqs (p % 16) := by
        rw [hamSyndrome_flipBit, h r hr, Nat.zero_xor]
      have hfix : hamCorrect 11 h16Eqs h16Table (embRow (flipBit m p) r) = (embRow m r, .corrected 1) := by
        rw [embRow_flipBit m hp (by omega), if_pos hrow,
          hamCorrect_of_column h16Eqs_distinctColumns h16Table_ofColumns (by omega) hsyn, flipBit_flipBit]
      simp only [embFixRows, hfix]
      subst hrow
      rw [setBits_embRow_flipBit m hp, embFixRows_of_rows fun s hs => h s (hrest s hs)]
      simp
    · have hclean : hamCorrect 11 h16Eqs h16Table (embRow (flipBit m p) r) = (embRow m r, .ok) := by
        rw [embRow_flipBit m hp (by omega), if_neg hrow, hamCorrect_of_zero (h r hr)]
      simp only [embFixRows, hclean, ih hrest, List.mem_cons, hrow, false_or]

theorem embFixCols_of_cols (h : ∀ c < 16, embOddCol m c = false) (fixed : Bool) : embFixCols m fixed = some m := by
  rw [embFixCols, (embBadCols_eq_nil m).mpr h]

/-- A single error in row 7 leaves one odd column. -/
theorem embFixCols_flipBit {k : Nat} (h : ∀ c < 16, embOddCol m c = false) (hk : k < 16) :
    embFixCols (flipBit m (112 + k)) false = some m := by
  have hone : embBadCols (flipBit m (112 + k)) = [k] := by
    have hfilter : embBadCols (flipBit m (112 + k)) = (List.range 16).filter (· = k) := by
      refine List.filter_congr fun c hc => ?_
      have hc16 := List.mem_range.mp hc
      rw [← embOddCol, embOddCol_flipBit_last m hc16 hk, h c hc16, Bool.false_xor]
    rw [hfilter]
    exact (by decide : ∀ k < 16, (List.range 16).filter (· = k) = [k]) k hk
  rw [embFixCols, hone]
  simp [flipBit_flipBit]

end

theorem embResult_codeword (received : BitVec 128) (l : BitVec 72) :
    embResult received (embCodeword l) = (l, outcomeOfChanges (dist (embCodeword l) received)) := by
  have hcs : (gather 5 embCsPos (embCodeword l)).toNat = cs5Of l := by
    have hlt := cs5Of_lt l
    rw [(embWord_codeword l).checksum, gather_info_embCodeword, BitVec.toNat_ofNat, Nat.mod_eq_of_lt (by omega)]
  rw [embResult, gather_info_embCodeword, if_pos hcs]

theorem embDecode_encode (l : BitVec 72) : embDecode (embEncode l) = (l, outcomeOfChanges 0) := by
  have hword := embWord_codeword l
  have hrows := embFixRows_of_rows (fun r hr => hword.rows r (List.mem_range.mp hr)) false
  simp only [embDecode, embMatrix_encode, hrows, embFixCols_of_cols hword.cols, embResult_codeword, dist_self]

theorem embDecode_flipBit (l : BitVec 72) {k : Nat} (hk : k < 128) :
    embDecode (flipBit (embEncode l) k) = (l, outcomeOfChanges 1) := by
  have hword := embWord_codeword l
  have hp : k % 8 * 16 + k / 8 < 128 := by omega
  have hrows := embFixRows_flipBit hword.rows hp (rs := List.range 7) (by simp) false
  unfold embDecode
  rw [embMatrix_flipBit _ hk, embMatrix_encode, hrows]
  split_ifs with hrow
  · simp only [embFixCols_of_cols hword.cols, embResult_codeword, dist_flipBit _ hp]
  · obtain ⟨c, hc, hpos⟩ : ∃ c < 16, k % 8 * 16 + k / 8 = 112 + c :=
      ⟨k / 8, by omega, by have := mt List.mem_range.mpr hrow; omega⟩
    simp only [hpos, embFixCols_flipBit hword.cols hc, embResult_codeword, dist_flipBit _ (hpos ▸ hp)]

end Sys2Proof.Machine

namespace Sys2Proof.Claims

open Sys2Proof.Machine

/-- Settles O31. -/
theorem embEncWritesTheCodeword : Obligations.EmbEncWritesTheCodeword := by
  intro s
  obtain ⟨hout, hresult⟩ := dataCommandState_delivers (embEncode (dataInBits 72 s)) clearedResult s
  have hin (j : Nat) (hj : j < 72) := getMsbD_dataInBits (by decide) hj s
  have hword := embWord_codeword (dataInBits 72 s)
  refine ⟨_, encoderRule_runs embEncode s, dataCommandState_frame _ _ s, hresult, _, _,
    (embCodeword (dataInBits 72 s)).getMsbD, rfl, rfl, fun k hk => ?_, fun r c hr hc => ?_, fun r c h2 h6 hc => ?_,
    fun j hj => ?_, fun r hr => ?_, fun c hc => ?_, fun k hk => ?_⟩
  · rw [hout, getMsbD_padTo _ _ _ (by decide), embEncode_eq, embTransmit, getMsbD_mkBits]
    simp [hk]
  · rw [← embInfoPos_long r hr c hc, getMsbD_embCodeword_info _ (by omega), hin _ (by omega)]
  · obtain ⟨r, rfl⟩ : ∃ q, r = q + 2 := ⟨r - 2, by omega⟩
    rw [← embInfoPos_short r (by omega) c hc, getMsbD_embCodeword_info _ (by omega), hin _ (by omega),
      Nat.add_sub_cancel]
  · have hlow : 4 - j < 5 := by omega
    rw [← embCsPos_eq j hj, getMsbD_embCodeword_cs _ hj, cs5Of_dataIn, BitVec.getMsbD_eq_getLsbD, BitVec.getLsbD_ofNat]
    simp [hj, hlow]
  · refine Eq.trans (congrArg (hamSyndrome · 11 h16Eqs) (eq_of_getMsbD fun c hc => ?_)) (hword.rows r hr)
    rw [getMsbD_mkBits, getMsbD_embRow _ (by omega) hc]
    simp [hc]
  · rw [← hword.cols c hc]
    simp [embOddCol, parityOf, embCol, List.range_succ, Nat.add_comm]
  · rw [hout, getMsbD_padTo _ _ _ (by decide), BitVec.getMsbD_of_ge _ _ hk]

/-- Settles O32. -/
theorem embDecCorrectsEverySingleError : Obligations.EmbDecCorrectsEverySingleError := fun s => by
  obtain ⟨t, hexec, hframe, -, hdata, -⟩ := decoder_delivers embDecode s
  refine ⟨t, hexec, hframe, fun l => ⟨fun hw => hdata l 0 (by decide) ?_, fun k hk hw => hdata l 1 (by decide) ?_⟩⟩
  · rw [hw, embDecode_encode]
  · rw [hw, embDecode_flipBit l hk]

/-- Settles O33: rows, columns and checksum that all fit make an encoded matrix. -/
theorem embDecIsSound : Obligations.EmbDecIsSound := by
  refine fun e l => ⟨fun h => ?_, fun n h => ?_⟩
  · have hdist := dist_of_embDecode h (by decide)
    rw [← dist_eq_zero]
    by_contra h0
    simp [outcomeOfChanges, h0] at hdist
  · have hdist := dist_of_embDecode h nofun
    unfold outcomeOfChanges at hdist
    split_ifs at hdist with h0
    obtain rfl : n = dist e (embEncode l) := by simpa using hdist
    exact ⟨Nat.pos_of_ne_zero h0, rfl⟩

end Sys2Proof.Claims
end

section
/-! PROOFS. The transmit framer (41_burst_tx.md R230 to R244): the fields of the bursts it builds, the latch, and what
each of its commands answers. -/

namespace Sys2Proof.Machine

open Sys2Proof.Claims

/-! ## Substrings -/

section
variable {m n w : Nat} {p k : Nat}

theorem bits_append_left (a : BitVec m) (b : BitVec n) (h : p + k ≤ m) : bits (a ++ b) p k = bits a p k := by
  refine eq_of_getMsbD fun i hi => ?_
  rw [getMsbD_bits _ _ _ _ (by omega), getMsbD_bits _ _ _ _ h, BitVec.getMsbD_append, if_neg (by omega)]

theorem bits_append_right (a : BitVec m) (b : BitVec n) (h : p + k ≤ n) : bits (a ++ b) (m + p) k = bits b p k := by
  have hsub (i : Nat) : m + p + i - m = p + i := by omega
  refine eq_of_getMsbD fun i hi => ?_
  rw [getMsbD_bits _ _ _ _ (by omega), getMsbD_bits _ _ _ _ h, BitVec.getMsbD_append, if_pos (by omega), hsub]

theorem bits_bits (s : BitVec w) {a : Nat} (h : p + k ≤ n) (hw : a + n ≤ w) :
    bits (bits s a n) p k = bits s (a + p) k := by
  refine eq_of_getMsbD fun i hi => ?_
  have hlt : p + i < n := by omega
  rw [getMsbD_bits _ _ _ _ h, getMsbD_bits _ _ _ _ hw, getMsbD_bits _ _ _ _ (by omega), Nat.add_assoc]
  simp [hlt]

/-- A string cut in two and put together again. -/
theorem bits_append_bits (s : BitVec (m + n)) : bits s 0 m ++ bits s m n = s := by
  refine eq_of_getMsbD fun i hi => ?_
  rw [BitVec.getMsbD_append]
  split_ifs with hm
  · have hlt : i - m < n := by omega
    rw [getMsbD_bits _ _ _ _ le_rfl, Nat.add_sub_cancel' hm]
    simp [hlt]
  · rw [getMsbD_bits _ _ _ _ (by omega), Nat.zero_add]
    simp [Nat.not_le.mp hm]

end

/-! ## The fields of a data burst -/

section
variable (info : BitVec 196) (cc dt : BitVec 4) (sync : BitVec 48)

theorem centerOf_dataBurst : centerOf (dataBurst info cc dt sync) = sync := by
  unfold centerOf dataBurst
  rw [bits_append_left (_ ++ _) (bits info 98 98) (by decide), bits_append_left (_ ++ _) (bits _ 10 10) (by decide)]
  exact (bits_append_right (m := 108) (p := 0) _ sync (by decide)).trans (bits_zero_self sync)

theorem infoOf_dataBurst : infoOf (dataBurst info cc dt sync) = info := by
  have hfirst : bits (dataBurst info cc dt sync) 0 98 = bits info 0 98 := by
    unfold dataBurst
    rw [bits_append_left (_ ++ _) (bits info 98 98) (by decide), bits_append_left (_ ++ _) (bits _ 10 10) (by decide),
      bits_append_left (_ ++ _) sync (by decide), bits_append_left (bits info 0 98) _ (by decide), bits_zero_self]
  have hlast : bits (dataBurst info cc dt sync) 166 98 = bits info 98 98 :=
    (bits_append_right (m := 166) (p := 0) _ (bits info 98 98) (by decide)).trans (bits_zero_self _)
  rw [infoOf, hfirst, hlast]
  exact bits_append_bits (m := 98) (n := 98) info

theorem slotTypeOf_dataBurst : slotTypeOf (dataBurst info cc dt sync) = slotType cc dt := by
  have hfirst : bits (dataBurst info cc dt sync) 98 10 = bits (slotType cc dt) 0 10 := by
    unfold dataBurst
    rw [bits_append_left (_ ++ _) (bits info 98 98) (by decide), bits_append_left (_ ++ _) (bits _ 10 10) (by decide),
      bits_append_left (_ ++ _) sync (by decide)]
    exact (bits_append_right (m := 98) (p := 0) _ (bits (slotType cc dt) 0 10) (by decide)).trans (bits_zero_self _)
  have hlast : bits (dataBurst info cc dt sync) 156 10 = bits (slotType cc dt) 10 10 := by
    unfold dataBurst
    rw [bits_append_left (_ ++ _) (bits info 98 98) (by decide)]
    exact (bits_append_right (m := 156) (p := 0) _ (bits (slotType cc dt) 10 10) (by decide)).trans (bits_zero_self _)
  rw [slotTypeOf, hfirst, hlast]
  exact bits_append_bits (m := 10) (n := 10) (slotType cc dt)

end

/-! ## The fields of a voice burst -/

section
variable (v : BitVec 216) (center : BitVec 48)

theorem centerOf_voiceBurst : centerOf (voiceBurst v center) = center := by
  unfold centerOf voiceBurst
  rw [bits_append_left (_ ++ _) (bits v 108 108) (by decide)]
  exact (bits_append_right (m := 108) (p := 0) (bits v 0 108) center (by decide)).trans (bits_zero_self center)

theorem voiceOf_voiceBurst : voiceOf (voiceBurst v center) = v := by
  have hfirst : bits (voiceBurst v center) 0 108 = bits v 0 108 := by
    unfold voiceBurst
    rw [bits_append_left (_ ++ _) (bits v 108 108) (by decide), bits_append_left (bits v 0 108) center (by decide),
      bits_zero_self]
  have hlast : bits (voiceBurst v center) 156 108 = bits v 108 108 :=
    (bits_append_right (m := 156) (p := 0) _ (bits v 108 108) (by decide)).trans (bits_zero_self _)
  rw [voiceOf, hfirst, hlast]
  exact bits_append_bits (m := 108) (n := 108) v

end

/-- The EMB field as a function of the center. -/
theorem embOf_eq (b : BitVec 264) : embOf b = bits (centerOf b) 0 8 ++ bits (centerOf b) 40 8 := by
  rw [embOf, centerOf, bits_bits b (by decide) (by decide), bits_bits b (by decide) (by decide)]

theorem embDataOf_eq (b : BitVec 264) : embDataOf b = bits (centerOf b) 8 32 := by
  rw [embDataOf, centerOf, bits_bits b (by decide) (by decide)]

section
variable (v : BitVec 216) (emb : BitVec 16) (data : BitVec 32)

theorem embDataOf_voiceBurst : embDataOf (voiceBurst v (embCenter emb data)) = data := by
  rw [embDataOf_eq, centerOf_voiceBurst, embCenter, bits_append_left (_ ++ _) (bits emb 8 8) (by decide)]
  exact (bits_append_right (m := 8) (p := 0) (bits emb 0 8) data (by decide)).trans (bits_zero_self data)

theorem embOf_voiceBurst : embOf (voiceBurst v (embCenter emb data)) = emb := by
  have hfirst : bits (embCenter emb data) 0 8 = bits emb 0 8 := by
    unfold embCenter
    rw [bits_append_left (_ ++ _) (bits emb 8 8) (by decide), bits_append_left (bits emb 0 8) data (by decide),
      bits_zero_self]
  have hlast : bits (embCenter emb data) 40 8 = bits emb 8 8 :=
    (bits_append_right (m := 40) (p := 0) _ (bits emb 8 8) (by decide)).trans (bits_zero_self _)
  rw [embOf_eq, centerOf_voiceBurst, hfirst, hlast]
  exact bits_append_bits (m := 8) (n := 8) emb

end

/-! ## The tables of the statements are those of the model -/

theorem syncOf_data (o : SyncOrigin) (ts : Bool) : syncOf o .data ts = syncWord o true ts := by
  cases o <;> cases ts <;> rfl

theorem syncOf_voice (o : SyncOrigin) (ts : Bool) : syncOf o .voice ts = syncWord o false ts := by
  cases o <;> cases ts <;> rfl

theorem lcssOf_eq_expected : ∀ p ≤ 4, 1 ≤ p → lcssOf p = expectedLcss p := by decide

/-! ## The state after a burst is sent -/

/-- The next state of a command that builds the burst b and leaves TXSTATE at x (41_burst_tx.md R241 to R244). -/
@[simps tx] def sentState (b : BitVec 264) (x : TxState) (s : State) : State :=
  { s with
    status := { s.status with done := true }
    result := clearedResult
    tx := x
    mem := (storeBuf .burstOut b s).mem }

section
variable (b : BitVec 264) (x : TxState) (s : State)

@[simp] theorem loadBuf_sentState (w : Nat) (c : Buf) :
    loadBuf w c (sentState b x s) = loadBuf w c (storeBuf .burstOut b s) := rfl

theorem loadBuf_sentState_burstOut : loadBuf 264 .burstOut (sentState b x s) = b := by simp

theorem loadBuf_sentState_other (w : Nat) {c : Buf} (hc : c ≠ .burstOut) :
    loadBuf w c (sentState b x s) = loadBuf w c s := loadBuf_storeBuf_other w c .burstOut b s hc

theorem sentState_stored : StoredOnly [.burstOut] s.mem (sentState b x s).mem := .store (by decide) b .refl

theorem sentState_frame : HostSideSame s (sentState b x s) ∧ RxSame s (sentState b x s) ∧
    OnlyDoneSet s (sentState b x s) ∧ (sentState b x s).result = clearedResult ∧
    MemSameOutside [.burstOut] s (sentState b x s) :=
  ⟨⟨rfl, rfl, rfl, rfl, rfl⟩, ⟨rfl, rfl, rfl⟩, rfl, rfl, fun _ ha => (sentState_stored b x s).memRead_outside ha⟩

end

/-! ## The commands -/

/-- The voice burst of the position and the context of s, around the payload in VOICE_IN. -/
abbrev voiceBurstOf (s : State) : BitVec 264 := voiceBurst (loadBuf 216 .voiceIn s) (voiceCenter s)

/-- The position advanced modulo 6. -/
abbrev nextTx (s : State) : TxState := { s.tx with pos := BitVec.ofNat 3 ((s.tx.pos.toNat + 1) % 6) }

/-- The state after CALL_START in a valid context (R240). -/
def startedState (s : State) : State := setDone { latch (clearResult s) with tx := { pos := 0, active := true } }

theorem exec_callStart {s : State} (h : ValidContext s.ctx) : exec .callStart s = .next (startedState s) :=
  exec_of_rule_ok (i := .callStart) (if_pos ((validContext_iff _).mpr h))

section
variable {s : State}

theorem exec_txHdr (h : s.tx.active = true) : exec .txHdr s = .next (sentState (lcBurst 1 s) s.tx s) :=
  exec_of_rule_ok (i := .txHdr) (if_pos h)

theorem exec_txTerm (h : s.tx.active = true) :
    exec .txTerm s = .next (sentState (lcBurst 2 s) { pos := 0, active := false } s) :=
  exec_of_rule_ok (i := .txTerm) (if_pos h)

/-- Position A latches first. -/
theorem exec_txVoice_first (h : s.tx.active = true) (hpos : s.tx.pos = 0) (hvalid : ValidContext s.ctx) :
    exec .txVoice s = .next (sentState (voiceBurstOf (latch s)) (nextTx s) (latch s)) :=
  exec_of_rule_ok (i := .txVoice)
    ((if_pos h).trans ((if_pos hpos).trans (if_pos ((validContext_iff _).mpr hvalid))))

theorem exec_txVoice_next (h : s.tx.active = true) (hpos : s.tx.pos ≠ 0) :
    exec .txVoice s = .next (sentState (voiceBurstOf s) (nextTx s) s) :=
  exec_of_rule_ok (i := .txVoice) ((if_pos h).trans (if_neg hpos))

theorem exec_txData {dt : BitVec 4} (h : dt.toNat ≤ 11) : exec (.txData dt) s = .next (sentState
    (dataBurst (dataInBits 196 s) s.ctx.cc dt (syncOf s.ctrl.syncOrigin .data s.ctx.ts)) s.tx s) :=
  exec_of_rule_ok (i := .txData dt) (if_pos h)

end

theorem latch_stored (s : State) : StoredOnly [.lcAct, .embTx] s.mem (latch s).mem := by
  rw [latch_mem]
  exact .store (by decide) _ (.store (by decide) _ .refl)

theorem loadBuf_latch_other (w : Nat) {b : Buf} (hlc : b ≠ .lcAct) (hemb : b ≠ .embTx) (s : State) :
    loadBuf w b (latch s) = loadBuf w b s := (latch_stored s).loadBuf_other w (by simp [hlc, hemb])

theorem startedState_stored (s : State) : StoredOnly [.lcAct, .embTx] s.mem (startedState s).mem :=
  latch_stored (clearResult s)

/-- The header (mask select 1) and the terminator (2), field by field. -/
theorem lcBurst_fields (dt : BitVec 4) (s : State) :
    infoOf (lcBurst dt s) = bptcEncode (fullLc (loadBuf 72 .lcAct s) dt.toNat) ∧
      slotTypeOf (lcBurst dt s) = golayEncode (s.act.cc ++ dt) ∧
      centerOf (lcBurst dt s) = syncWord s.ctrl.syncOrigin true s.act.ts :=
  ⟨infoOf_dataBurst _ _ _ _, slotTypeOf_dataBurst _ _ _ _, (centerOf_dataBurst _ _ _ _).trans (syncOf_data _ _)⟩

/-! ## The center of a voice burst -/

section
variable {s : State}

theorem voiceCenter_first (h : s.tx.pos = 0) : voiceCenter s = syncWord s.ctrl.syncOrigin false s.act.ts :=
  (if_pos h).trans (syncOf_voice _ _)

theorem voiceCenter_fragment (h1 : 1 ≤ s.tx.pos.toNat) (h4 : s.tx.pos.toNat ≤ 4) :
    voiceCenter s = embCenter (qrEncode (s.act.cc ++ 0#1 ++ expectedLcss s.tx.pos.toNat))
      (bits (loadBuf 128 .embTx s) (32 * (s.tx.pos.toNat - 1)) 32) := by
  have hpos : s.tx.pos ≠ 0 := fun h => by simp [h] at h1
  rw [voiceCenter, if_neg hpos, if_pos h4, lcssOf_eq_expected _ h4 h1]
  rfl

theorem voiceCenter_last (h : 4 < s.tx.pos.toNat) :
    voiceCenter s = embCenter (qrEncode (s.act.cc ++ 0#1 ++ 0#2)) 0 := by
  have hpos : s.tx.pos ≠ 0 := fun h0 => by simp [h0] at h
  rw [voiceCenter, if_neg hpos, if_neg (Nat.not_le.mpr h)]
  rfl

theorem nextTx_pos_toNat (s : State) : (nextTx s).pos.toNat = (s.tx.pos.toNat + 1) % 6 := by
  rw [BitVec.toNat_ofNat, Nat.mod_eq_of_lt]
  omega

end

end Sys2Proof.Machine

namespace Sys2Proof.Claims

open Sys2Proof.Machine

/-- Settles O39. -/
theorem callStartLatchesAndActivates : Obligations.CallStartLatchesAndActivates := by
  intro s hvalid
  exact ⟨_, exec_callStart hvalid, ⟨rfl, rfl, rfl, rfl, rfl⟩, ⟨rfl, rfl, rfl⟩, rfl, rfl, rfl, rfl,
    loadBuf_latch_lcAct (clearResult s), loadBuf_latch_embTx (clearResult s),
    fun a ha => (startedState_stored s).memRead_outside ha⟩

/-- Settles O40. -/
theorem headerAndTerminatorBursts : Obligations.HeaderAndTerminatorBursts := by
  intro s hactive
  obtain ⟨hhost, hrx, hdone, hresult, hmem⟩ := sentState_frame (lcBurst 1 s) s.tx s
  obtain ⟨hhost', hrx', hdone', hresult', hmem'⟩ := sentState_frame (lcBurst 2 s) { pos := 0, active := false } s
  refine ⟨⟨_, exec_txHdr hactive, hhost, ⟨rfl, rfl⟩, hrx, hdone, hresult, hmem, ?_⟩, _, exec_txTerm hactive, hhost',
    rfl, hrx', hdone', hresult', rfl, hmem', ?_⟩
  · rw [loadBuf_sentState_burstOut]
    exact lcBurst_fields 1 s
  · rw [loadBuf_sentState_burstOut]
    exact lcBurst_fields 2 s

/-- Settles O41. -/
theorem voiceBurstByPosition : Obligations.VoiceBurstByPosition := by
  rintro s p hactive rfl hp hvalid
  by_cases h0 : s.tx.pos = 0
  · obtain ⟨hhost, hrx, hdone, hresult, -⟩ := sentState_frame (voiceBurstOf (latch s)) (nextTx s) (latch s)
    have hlatch (w : Nat) (b : Buf) (hb : b ≠ .burstOut) :=
      loadBuf_sentState_other (voiceBurstOf (latch s)) (nextTx s) (latch s) w hb
    have hzero : s.tx.pos.toNat = 0 := congrArg BitVec.toNat h0
    refine ⟨_, exec_txVoice_first hactive h0 (hvalid hzero), hhost, hrx, hdone, hresult, hactive, nextTx_pos_toNat s,
      ?_, fun _ => ⟨rfl, ?_, ?_, ?_, fun a ha => ?_⟩, fun h1 => by omega, fun h1 => by omega, fun h5 => by omega⟩
    · rw [loadBuf_sentState_burstOut, voiceOf_voiceBurst, loadBuf_latch_other _ (by decide) (by decide)]
    · rw [hlatch 72 .lcAct (by decide), loadBuf_latch_lcAct]
    · rw [hlatch 128 .embTx (by decide), loadBuf_latch_embTx]
    · rw [loadBuf_sentState_burstOut, centerOf_voiceBurst, voiceCenter_first (s := latch s) h0]
      rfl
    · exact (((latch_stored s).mono (by decide)).trans ((sentState_stored _ _ _).mono (by decide))).memRead_outside ha
  · obtain ⟨hhost, hrx, hdone, hresult, hmem⟩ := sentState_frame (voiceBurstOf s) (nextTx s) s
    have hne : s.tx.pos.toNat ≠ 0 := fun h => h0 (BitVec.eq_of_toNat_eq h)
    refine ⟨_, exec_txVoice_next hactive h0, hhost, hrx, hdone, hresult, hactive, nextTx_pos_toNat s, ?_,
      fun h => absurd h hne, fun _ => ⟨rfl, hmem⟩, fun h1 h4 => ?_, fun h5 => ?_⟩ <;> rw [loadBuf_sentState_burstOut]
    · exact voiceOf_voiceBurst _ _
    · rw [voiceBurstOf, voiceCenter_fragment h1 h4, embOf_voiceBurst, embDataOf_voiceBurst]
      exact ⟨rfl, rfl⟩
    · rw [voiceBurstOf, voiceCenter_last (by omega), embOf_voiceBurst, embDataOf_voiceBurst]
      exact ⟨rfl, rfl⟩

/-- Settles O42. -/
theorem txDataBurst : Obligations.TxDataBurst := by
  refine fun s dt => ⟨fun hdt => ?_, fun hdt =>
    exec_of_rule_error (i := .txData dt) (c := .illegalCmd) (if_neg (by omega))⟩
  obtain ⟨hhost, hrx, hdone, hresult, hmem⟩ := sentState_frame
    (dataBurst (dataInBits 196 s) s.ctx.cc dt (syncOf s.ctrl.syncOrigin .data s.ctx.ts)) s.tx s
  refine ⟨_, exec_txData hdt, hhost, ⟨rfl, rfl⟩, hrx, hdone, hresult, hmem, ?_⟩
  rw [loadBuf_sentState_burstOut]
  exact ⟨infoOf_dataBurst _ _ _ _, slotTypeOf_dataBurst _ _ _ _, (centerOf_dataBurst _ _ _ _).trans (syncOf_data _ _)⟩

end Sys2Proof.Claims
end

section
/-! PROOFS. Received bursts with a sync (42_burst_rx.md R300 to R305): the nearest pattern, a superframe's first burst,
and data bursts by what their slot type and their code words decode to. -/

namespace Sys2Proof.Machine

open Sys2Proof.Claims

/-! ## The nearest sync pattern -/

/-- The better of two candidates, the first one of equally good ones. -/
abbrev nearer (f : Nat → Nat) (best : Nat × Nat) (k : Nat) : Nat × Nat := if f k < best.2 then (k, f k) else best

section
variable {f : Nat → Nat}

/-- A candidate nearer than every other one is found. -/
theorem foldl_nearer_of_least {i k : Nat} {ls : List Nat} (hk : k ∈ i :: ls)
    (hleast : ∀ j ∈ i :: ls, j ≠ k → f k < f j) : ls.foldl (nearer f) (i, f i) = (k, f k) := by
  induction ls generalizing i with
  | nil => rw [List.mem_singleton.mp hk]; rfl
  | cons j ls ih =>
    have hi (h : i ≠ k) := hleast i List.mem_cons_self h
    have hj (h : j ≠ k) := hleast j (by simp) h
    have hrest (l : Nat) (hl : l ∈ ls) := hleast l (by simp [hl])
    rw [List.foldl_cons]
    by_cases hlt : f j < f i
    · have hik : i ≠ k := fun h => by
        by_cases hjk : j = k
        · rw [h, hjk] at hlt; exact lt_irrefl _ hlt
        · have := hj hjk; rw [h] at hlt; omega
      rw [nearer, if_pos hlt]
      refine ih ?_ (List.forall_mem_cons.mpr ⟨hj, hrest⟩)
      simpa [Ne.symm hik] using hk
    · rw [nearer, if_neg hlt]
      refine ih ?_ (List.forall_mem_cons.mpr ⟨hi, hrest⟩)
      by_cases hik : i = k
      · simp [hik]
      · have hjk : j ≠ k := fun h => hlt (h ▸ hi hik)
        simpa [Ne.symm hik, Ne.symm hjk] using hk

theorem foldl_nearer_mem (i : Nat) (ls : List Nat) : ∃ k ∈ i :: ls, ls.foldl (nearer f) (i, f i) = (k, f k) := by
  induction ls generalizing i with
  | nil => exact ⟨i, List.mem_cons_self, rfl⟩
  | cons j ls ih =>
    rw [List.foldl_cons, nearer]
    split_ifs
    · obtain ⟨k, hk, hfold⟩ := ih j
      exact ⟨k, List.mem_cons_of_mem i hk, hfold⟩
    · obtain ⟨k, hk, hfold⟩ := ih i
      exact ⟨k, by simp only [List.mem_cons] at hk ⊢; tauto, hfold⟩

end

theorem syncMatch_eq (c : BitVec 48) : syncMatch c =
    (List.range 8).foldl (nearer fun k => dist c (syncPattern k)) (0, dist c (syncPattern 0)) := rfl

/-- No two patterns differ in fewer than 9 bits. -/
theorem syncPattern_far : ∀ j < 8, ∀ k < 8, j ≠ k → 9 ≤ dist (syncPattern j) (syncPattern k) := by decide +kernel

theorem syncMatch_of_near {c : BitVec 48} {k : Nat} (hk : k < 8) (hnear : dist c (syncPattern k) ≤ 4) :
    syncMatch c = (k, dist c (syncPattern k)) := by
  rw [syncMatch_eq]
  refine foldl_nearer_of_least (by simp [hk]) fun j hj hne => ?_
  have hj8 : j < 8 := by
    rcases List.mem_cons.mp hj with rfl | h
    · decide
    · exact List.mem_range.mp h
  have hfar := syncPattern_far j hj8 k hk hne
  have htri := dist_triangle (syncPattern j) c (syncPattern k)
  rw [dist_comm (syncPattern j) c] at htri
  omega

theorem syncMatch_is_pattern (c : BitVec 48) : ∃ k < 8, syncMatch c = (k, dist c (syncPattern k)) := by
  rw [syncMatch_eq]
  obtain ⟨k, hk, hfold⟩ := foldl_nearer_mem (f := fun k => dist c (syncPattern k)) 0 (List.range 8)
  refine ⟨k, ?_, hfold⟩
  rcases List.mem_cons.mp hk with rfl | h
  · decide
  · exact List.mem_range.mp h

/-! ## RX_BURST by the sync of the burst -/

section
variable {s : State} {k : Nat}

/-- The received burst's center is so near to pattern k that the tolerance admits it and no other pattern is nearer. -/
abbrev NearSync (s : State) (k : Nat) : Prop :=
  k < 8 ∧ syncDistance (received s) k ≤ 4 ∧ syncDistance (received s) k ≤ s.ctrl.syncTol.toNat

theorem nearSync_of_syncsTo (h : SyncsTo s k) : NearSync s k := by
  obtain ⟨hk, htol, hdist⟩ := h
  exact ⟨hk, hdist.trans htol, hdist⟩

/-- The pattern itself is admitted by every tolerance. -/
theorem nearSync_of_center_eq (hk : k < 8) (h : centerOf (received s) = syncPattern k) : NearSync s k := by
  have hdist : syncDistance (received s) k = 0 := (congrArg (dist · (syncPattern k)) h).trans (dist_self _)
  exact ⟨hk, by omega, by omega⟩

theorem rxBurst_of_nearSync (h : NearSync s k) :
    rxBurst (clearResult s) = rxSynced k (received s) (clearOutputs (clearResult s)) := by
  obtain ⟨hk, hnear, hdist⟩ := h
  have hmatch := syncMatch_of_near hk hnear
  have hsync : (syncMatch (centerOf (received (clearResult s)))).2 ≤ (clearResult s).ctrl.syncTol.toNat :=
    (congrArg Prod.snd hmatch).trans_le hdist
  have hindex : (syncMatch (centerOf (received (clearResult s)))).1 = k := congrArg Prod.fst hmatch
  rw [rxBurst_eq, if_pos hsync, hindex]
  rfl

theorem rxBurst_of_noSync (h : NoSync s) :
    rxBurst (clearResult s) = rxEmbedded (received s) (clearOutputs (clearResult s)) := by
  obtain ⟨j, hj, hmatch⟩ := syncMatch_is_pattern (centerOf (received s))
  have hsync : ¬ (syncMatch (centerOf (received (clearResult s)))).2 ≤ (clearResult s).ctrl.syncTol.toNat :=
    Nat.not_le.mpr ((h j hj).trans_eq (congrArg Prod.snd hmatch).symm)
  rw [rxBurst_eq, if_neg hsync]
  rfl

end

theorem exec_rxBurst_of_eq {s u : State} (h : rxBurst (clearResult s) = u) : exec .rxBurst s = .next (setDone u) := by
  rw [exec_rxBurst, h]

/-- The frame that every burst keeps, from what was stored. -/
theorem rxFrame_of_stored {bufs : List Buf} {s u : State} (h : rxBurst (clearResult s) = u)
    (hmem : StoredOnly bufs s.mem u.mem) : RxFrame bufs s (setDone u) := by
  obtain ⟨hhost, htx⟩ := h ▸ (rxBurst_effect (clearResult s)).frame
  exact ⟨hhost, htx, fun a ha => hmem.memRead_outside ha⟩

/-! ## The start of a burst with a sync -/

theorem reassemblyPending_iff (s : State) : reassemblyPending s = true ↔
    s.rx.abort = false ∧ s.rx.fragMask ≠ 0 ∧ (s.rx.pos = 1 ∨ s.rx.pos = 2 ∨ s.rx.pos = 3) := by
  have hpos : ∀ pos : BitVec 3, (1 ≤ pos.toNat ∧ pos.toNat ≤ 3) ↔ (pos = 1 ∨ pos = 2 ∨ pos = 3) := by decide
  simp [reassemblyPending, hpos, and_assoc]

theorem abortCnt_countPending (s : State) : (countPending s).abortCnt = abortsWithSync s := by
  simp only [countPending_abortCnt, reassemblyPending_iff, abortsWithSync]

section
variable (k : Nat) (s : State)

theorem dataStart_rx : (dataStart k s).rx =
    { s.rx with syncId := BitVec.ofNat 3 k, pos := 7, abort := false, fragMask := 0 } := by
  simp [dataStart, syncedState]

theorem dataStart_fields : (dataStart k (clearResult s)).result = clearedResult ∧
    (dataStart k (clearResult s)).status = s.status ∧ (dataStart k (clearResult s)).fecFailCnt = s.fecFailCnt ∧
    (dataStart k (clearResult s)).abortCnt = abortsWithSync s := by
  have hcount := abortCnt_countPending (syncedState k (clearResult s))
  refine ⟨by simp [dataStart, syncedState], by simp [dataStart, syncedState], by simp [dataStart, syncedState], ?_⟩
  rw [dataStart, restartReassembly_abortCnt, hcount]
  simp [abortsWithSync, syncedState]

theorem dataStart_buffers : loadBuf 256 .dataOut (dataStart k s) = 0 ∧ loadBuf 216 .voiceOut (dataStart k s) = 0 ∧
    loadBuf 128 .rxFrag (dataStart k s) = 0 ∧ loadBuf 72 .rxLc (dataStart k s) = loadBuf 72 .rxLc s := by
  simp [dataStart, syncedState, loadBuf_storeBuf_other]

end

section
variable (v : BitVec 8) (o : DecOutcome) (k : Nat) (s : State)

theorem dataDecoded_mem : (dataDecoded v o k s).mem = (dataStart k s).mem := by
  rw [dataDecoded, setClass_mem, noteOutcome_mem, withRx_mem]

@[simp] theorem loadBuf_dataDecoded (w : Nat) (b : Buf) :
    loadBuf w b (dataDecoded v o k s) = loadBuf w b (dataStart k s) :=
  loadBuf_of_mem_eq w b (dataDecoded_mem v o k s)

theorem dataDecoded_rx : (dataDecoded v o k s).rx = { s.rx with
    syncId := BitVec.ofNat 3 k, pos := 7, abort := false, fragMask := 0, cc := v.extractLsb' 4 4,
    dt := v.extractLsb' 0 4 } := by
  simp [dataDecoded, dataStart_rx]

end

/-! ## The slot type -/

theorem slotType_extract (cc dt : BitVec 4) : (cc ++ dt).extractLsb' 4 4 = cc ∧ (cc ++ dt).extractLsb' 0 4 = dt :=
  ⟨BitVec.extractLsb'_append_eq_left, BitVec.extractLsb'_append_eq_right⟩

theorem golayDecode_of_near {b : BitVec 264} {v : BitVec 8} (h : dist (slotTypeOf b) (golayEncode v) ≤ 3) :
    golayDecode (slotTypeOf b) = (v, outcomeOfChanges (dist (slotTypeOf b) (golayEncode v))) :=
  nearestWithin_of_dist_le minDistance_golayEncode h

/-- Two decoders, one after the other, count together. -/
theorem recordOutcome_changes_add {m n : Nat} (h : m + n ≤ 255) (r : Result) (hcorr : r.corr = decide (m ≠ 0))
    (hncorr : r.ncorr = BitVec.ofNat 8 m) : recordOutcome (outcomeOfChanges n) r =
      { r with corr := decide (m + n ≠ 0), ncorr := BitVec.ofNat 8 (m + n) } := by
  unfold outcomeOfChanges
  split_ifs with hn
  · simp [hn, recordOutcome, ← hcorr, ← hncorr]
  · have hm : m % 256 = m := Nat.mod_eq_of_lt (by omega)
    simp [hn, recordOutcome, hncorr, sat255, hm, Nat.min_eq_left h]

/-! ## Data bursts -/

section
variable {s : State} {k : Nat}

theorem rxBurst_of_dataSync (hsync : NearSync s k) (hk : k % 2 = 1) :
    rxBurst (clearResult s) = rxData (received s) (syncedState k (clearResult s)) := by
  rw [rxBurst_of_nearSync hsync, rxSynced_data hk]

theorem rxBurst_of_slotType {cc dt : BitVec 4} {m : Nat} (hsync : NearSync s k) (hk : k % 2 = 1)
    (hm : m = dist (slotTypeOf (received s)) (golayEncode (cc ++ dt))) (hm3 : m ≤ 3) :
    rxBurst (clearResult s) =
      if dt = 1 ∨ dt = 2 then
        rxFullLc (infoOf (received s)) dt.toNat (dataDecoded (cc ++ dt) (outcomeOfChanges m) k (clearResult s))
      else setPl
        (writeDataOut (infoOf (received s)) (dataDecoded (cc ++ dt) (outcomeOfChanges m) k (clearResult s))) := by
  have hdecode := golayDecode_of_near (hm ▸ hm3)
  rw [← hm] at hdecode
  rw [rxBurst_of_dataSync hsync hk, rxData_of_slotType_ok hdecode (outcomeOfChanges_ne_fail m),
    (slotType_extract cc dt).2]

end

theorem outcomeOfChanges_injective {m n : Nat} (h : outcomeOfChanges m = outcomeOfChanges n) : m = n := by
  unfold outcomeOfChanges at h
  split_ifs at h <;> simp_all

theorem dist_le {w : Nat} (s t : BitVec w) : dist s t ≤ w := onesBelow_le _ w

theorem bptcDecode_outcome {x : BitVec 196} (h : (bptcDecode x).2 ≠ .fail) :
    ∃ f n, n ≤ 196 ∧ bptcDecode x = (f, outcomeOfChanges n) := by
  unfold bptcDecode bptcResult at h ⊢
  split_ifs at h ⊢
  · exact ⟨_, _, dist_le _ _, rfl⟩
  · exact absurd rfl h

/-- The state u of a data burst of pattern k and slot type cc, dt, after decoders that changed m bits. -/
structure DataDecoded (s : State) (k : Nat) (cc dt : BitVec 4) (m : Nat) (u : State) : Prop where
  result : u.result = { decodedResult m with rxClass := 1 }
  rx : u.rx = { s.rx with syncId := BitVec.ofNat 3 k, pos := 7, abort := false, fragMask := 0, cc := cc, dt := dt }
  status : u.status = s.status
  fecFailCnt : u.fecFailCnt = s.fecFailCnt
  abortCnt : u.abortCnt = abortsWithSync s
  dataOut : loadBuf 256 .dataOut u = 0
  voiceOut : loadBuf 216 .voiceOut u = 0
  rxFrag : loadBuf 128 .rxFrag u = 0
  rxLc : loadBuf 72 .rxLc u = loadBuf 72 .rxLc s
  stored : StoredOnly [.voiceOut, .dataOut, .rxFrag] s.mem u.mem

theorem dataDecoded_slotType (s : State) (k : Nat) (cc dt : BitVec 4) {m : Nat} (hm : m ≤ 255) :
    DataDecoded s k cc dt m (dataDecoded (cc ++ dt) (outcomeOfChanges m) k (clearResult s)) := by
  obtain ⟨hresult, hstatus, hfec, habort⟩ := dataStart_fields k s
  obtain ⟨hdata, hvoice, hfrag, hlc⟩ := dataStart_buffers k (clearResult s)
  have hmem := dataDecoded_mem (cc ++ dt) (outcomeOfChanges m) k (clearResult s)
  constructor
  case stored => rw [hmem]; exact dataStart_stored k (clearResult s)
  case rx => simp [dataDecoded_rx, slotType_extract]
  all_goals simp [dataDecoded, hresult, hstatus, hfec, habort, hdata, hvoice, hfrag, hlc, recordOutcome_changes hm]

theorem DataDecoded.noteOutcome {s u : State} {k m n : Nat} {cc dt : BitVec 4} (h : DataDecoded s k cc dt m u)
    (hsum : m + n ≤ 255) : DataDecoded s k cc dt (m + n) (noteOutcome (outcomeOfChanges n) u) where
  result := by rw [noteOutcome_result, h.result]; exact recordOutcome_changes_add hsum _ rfl rfl
  rx := h.rx
  status := h.status
  fecFailCnt := h.fecFailCnt
  abortCnt := h.abortCnt
  dataOut := h.dataOut
  voiceOut := h.voiceOut
  rxFrag := h.rxFrag
  rxLc := h.rxLc
  stored := h.stored

/-! ## A superframe's first burst -/

/-- The burst is handed over, and reassembly starts again at position A (R304). -/
theorem exec_rxBurst_of_voiceSync {s : State} {k : Nat} (hsync : NearSync s k) (hk : k % 2 = 0) :
    ∃ t, exec .rxBurst s = .next t ∧ RxFrame [.voiceOut, .dataOut, .rxFrag] s t ∧ OnlyDoneSet s t ∧
      t.result = { clearedResult with pl := true, rxClass := 2 } ∧
      t.rx = { s.rx with syncId := BitVec.ofNat 3 k, pos := 0, abort := false, fragMask := 0 } ∧
      t.fecFailCnt = s.fecFailCnt ∧ t.abortCnt = abortsWithSync s ∧
      loadBuf 216 .voiceOut t = voiceOf (received s) ∧ loadBuf 256 .dataOut t = 0 ∧ loadBuf 128 .rxFrag t = 0 := by
  have hburst : rxBurst (clearResult s) = rxVoiceSync (received s) (syncedState k (clearResult s)) := by
    rw [rxBurst_of_nearSync hsync, rxSynced_voice hk]
  have hmem : StoredOnly [.voiceOut, .dataOut, .rxFrag] s.mem
      (rxVoiceSync (received s) (syncedState k (clearResult s))).mem := by
    simp only [rxVoiceSync, handOverVoice_mem, storeBuf_mem, restartReassembly_mem, countPending_mem, syncedState,
      withRx_mem]
    exact .store (by decide) _ (.store (by decide) _ ((clearOutputs_stored (clearResult s)).mono (by decide)))
  refine ⟨_, exec_rxBurst_of_eq hburst, rxFrame_of_stored hburst hmem, ?_⟩
  have hcount := abortCnt_countPending (syncedState k (clearResult s))
  simp only [rxVoiceSync, setDone_status, setDone_result, setDone_rx, setDone_fecFailCnt, setDone_abortCnt,
    handOverVoice_abortCnt, restartReassembly_abortCnt, hcount, OnlyDoneSet]
  simp [syncedState, loadBuf_storeBuf_other, clearedResult, abortsWithSync]

/-! ## An exact header or terminator -/

/-- The LC of a header or terminator received without an error is surfaced (R303). -/
theorem exec_rxBurst_of_lcBurst {s : State} {k : Nat} {cc dt : BitVec 4} {l : BitVec 72} (hsync : NearSync s k)
    (hk : k % 2 = 1) (hslot : slotTypeOf (received s) = golayEncode (cc ++ dt)) (hdt : dt = 1 ∨ dt = 2)
    (hinfo : infoOf (received s) = bptcEncode (fullLc l dt.toNat)) :
    ∃ t, exec .rxBurst s = .next t ∧ RxFrame [.voiceOut, .dataOut, .rxFrag, .rxLc] s t ∧
      t.rx = { s.rx with syncId := BitVec.ofNat 3 k, pos := 7, abort := false, fragMask := 0, cc := cc, dt := dt } ∧
      t.abortCnt = abortsWithSync s ∧ t.fecFailCnt = s.fecFailCnt ∧ loadBuf 72 .rxLc t = l ∧
      t.result = { clearedResult with lc := true, rxClass := 1 } ∧
      t.status = { s.status with done := true, lcEv := true } := by
  have hexact : 0 = dist (slotTypeOf (received s)) (golayEncode (cc ++ dt)) := by rw [hslot, dist_self]
  have hburst := rxBurst_of_slotType hsync hk hexact (by decide)
  have hu := (dataDecoded_slotType s k cc dt (m := 0) (by decide)).noteOutcome (n := 0) (by decide)
  rw [if_pos hdt, hinfo, rxFullLc_of_decodes (bptcDecode_encode _) (outcomeOfChanges_ne_fail 0),
    if_pos (rsCheck_fullLc l _), bits_fullLc] at hburst
  generalize noteOutcome (outcomeOfChanges 0) _ = u at hburst hu
  refine ⟨_, exec_rxBurst_of_eq hburst, rxFrame_of_stored hburst ?_, hu.rx, hu.abortCnt, hu.fecFailCnt, by simp, ?_, ?_⟩
  · rw [surfaceLc_mem, storeBuf_mem]
    exact .store (by decide) _ (hu.stored.mono (by decide))
  · simp [hu.result, clearedResult]
  · simp [hu.status]

end Sys2Proof.Machine

namespace Sys2Proof.Claims

open Sys2Proof.Machine

/-- Settles O49: the patterns are 9 or more bits apart. -/
theorem syncMatchIsUnambiguous : Obligations.SyncMatchIsUnambiguous := fun _ _ => syncMatch_of_near

/-- Settles O50. -/
theorem rxVoiceSyncStartsASuperframe : Obligations.RxVoiceSyncStartsASuperframe :=
  fun _ _ hsync hk => exec_rxBurst_of_voiceSync (nearSync_of_syncsTo hsync) hk

/-- Settles O51. -/
theorem rxRawDataHandedOver : Obligations.RxRawDataHandedOver := by
  intro s k cc dt m hsync hk hm hm3 h1 h2
  have hburst := rxBurst_of_slotType (nearSync_of_syncsTo hsync) hk hm hm3
  rw [if_neg (not_or.mpr ⟨h1, h2⟩)] at hburst
  have hu := dataDecoded_slotType s k cc dt (m := m) (by omega)
  generalize dataDecoded (cc ++ dt) (outcomeOfChanges m) k (clearResult s) = u at hburst hu
  refine ⟨_, exec_rxBurst_of_eq hburst, rxFrame_of_stored hburst ?_, ?_⟩
  · rw [setPl_mem, writeDataOut_mem, storeBuf_mem]
    exact .store (by decide) _ hu.stored
  · simp [OnlyDoneSet, hu.result, hu.status, hu.fecFailCnt, hu.abortCnt, hu.rx, loadBuf_writeDataOut_other, hu.voiceOut,
      hu.rxFrag]

/-- Settles O52. -/
theorem rxUndecodableSlotTypeIsDropped : Obligations.RxUndecodableSlotTypeIsDropped := by
  intro s k hsync hk hfar
  have hslot : (golayDecode (slotTypeOf (received s))).2 = .fail :=
    congrArg Prod.snd (nearestWithin_of_lt_dist hfar)
  have hburst : rxBurst (clearResult s) = dropBurst (dataStart k (clearResult s)) := by
    rw [rxBurst_of_dataSync (nearSync_of_syncsTo hsync) hk, rxData_of_slotType_fail hslot]
  obtain ⟨hresult, hstatus, hfec, habort⟩ := dataStart_fields k s
  obtain ⟨hdata, hvoice, hfrag, -⟩ := dataStart_buffers k (clearResult s)
  refine ⟨_, exec_rxBurst_of_eq hburst, rxFrame_of_stored hburst ?_, ?_⟩
  · rw [dropBurst_mem]
    exact dataStart_stored k (clearResult s)
  · simp [OnlyDoneSet, hresult, hstatus, hfec, habort, dataStart_rx, hdata, hvoice, hfrag]

/-- Settles O53: by what the product code answers, and whether its word is the Full LC of its own message. -/
theorem rxFullLcSurfacesOnlyChecked : Obligations.RxFullLcSurfacesOnlyChecked := by
  intro s k cc dt m hsync hk hm hm3 hdt
  have hburst := rxBurst_of_slotType (nearSync_of_syncsTo hsync) hk hm hm3
  rw [if_pos hdt] at hburst
  have hu := dataDecoded_slotType s k cc dt (m := m) (by omega)
  generalize dataDecoded (cc ++ dt) (outcomeOfChanges m) k (clearResult s) = u at hburst hu
  by_cases hfail : (bptcDecode (infoOf (received s))).2 = .fail
  · rw [rxFullLc_of_fail hfail] at hburst
    have hno (f : BitVec 96) (n : Nat) : bptcDecode (infoOf (received s)) ≠ (f, outcomeOfChanges n) := fun h =>
      outcomeOfChanges_ne_fail n ((congrArg Prod.snd h).symm.trans hfail)
    refine ⟨_, exec_rxBurst_of_eq hburst, rxFrame_of_stored hburst (hu.stored.mono (by decide)), hu.rx, hu.abortCnt,
      hu.dataOut, hu.voiceOut, hu.rxFrag, fun l n h => absurd h (hno _ n), fun f n h => absurd h (hno f n), fun _ => ?_⟩
    simp [OnlyDoneSet, hu.result, hu.status, hu.fecFailCnt, hu.rxLc]
  obtain ⟨f, n, hn, hinfo⟩ := bptcDecode_outcome hfail
  have hchanges (f' : BitVec 96) (n' : Nat) (h : bptcDecode (infoOf (received s)) = (f', outcomeOfChanges n')) :
      f' = f ∧ n' = n := by
    obtain ⟨hf, ho⟩ := Prod.mk.inj (hinfo.symm.trans h)
    exact ⟨hf.symm, (outcomeOfChanges_injective ho).symm⟩
  rw [rxFullLc_of_decodes hinfo (outcomeOfChanges_ne_fail n)] at hburst
  replace hu := hu.noteOutcome (n := n) (by omega)
  generalize noteOutcome (outcomeOfChanges n) u = u' at hburst hu
  by_cases hpass : rsCheck f dt.toNat = true
  · rw [if_pos hpass] at hburst
    refine ⟨_, exec_rxBurst_of_eq hburst, rxFrame_of_stored hburst ?_, hu.rx, hu.abortCnt, ?_, ?_, ?_,
      fun l n' h => ?_, fun f' n' h hno => ?_, fun h => absurd h hfail⟩
    · rw [surfaceLc_mem, storeBuf_mem]
      exact .store (by decide) _ (hu.stored.mono (by decide))
    · simp [loadBuf_storeBuf_other, hu.dataOut]
    · simp [loadBuf_storeBuf_other, hu.voiceOut]
    · simp [loadBuf_storeBuf_other, hu.rxFrag]
    · obtain ⟨rfl, rfl⟩ := hchanges _ _ h
      simp [bits_fullLc, hu.result, hu.status, hu.fecFailCnt]
    · obtain ⟨rfl, rfl⟩ := hchanges _ _ h
      exact absurd ((rsCheck_iff _ _).mp hpass) (hno _)
  · rw [if_neg hpass] at hburst
    refine ⟨_, exec_rxBurst_of_eq hburst, rxFrame_of_stored hburst (hu.stored.mono (by decide)), hu.rx, hu.abortCnt,
      hu.dataOut, hu.voiceOut, hu.rxFrag, fun l n' h => ?_, fun f' n' h _ => ?_, fun h => absurd h hfail⟩
    · obtain ⟨rfl, rfl⟩ := hchanges _ _ h
      exact absurd (rsCheck_fullLc l dt.toNat) hpass
    · obtain ⟨rfl, rfl⟩ := hchanges _ _ h
      simp [OnlyDoneSet, hu.result, hu.status, hu.fecFailCnt, hu.rxLc]

end Sys2Proof.Claims
end

section
/-! PROOFS. Received bursts without a sync (42_burst_rx.md R306 to R309): an EMB that does not decode, a burst that at
most takes its fragment, and the burst that completes the four fragments. -/

namespace Sys2Proof.Machine

open Sys2Proof.Claims

/-! ## Positions -/

theorem nextRxPos_toNat (s : State) : (nextRxPos s.rx.pos).toNat = nextPosition s :=
  (by decide : ∀ pos : BitVec 3, (nextRxPos pos).toNat = if pos.toNat ≤ 4 then pos.toNat + 1 else 7) s.rx.pos

theorem nextRxPos_eq (s : State) : nextRxPos s.rx.pos = BitVec.ofNat 3 (nextPosition s) := by
  rw [← nextRxPos_toNat, BitVec.ofNat_toNat, BitVec.setWidth_eq]

theorem isFragmentPos_next (s : State) : isFragmentPos (nextRxPos s.rx.pos) = decide (nextPosition s ≤ 4) := by
  have hpos : 1 ≤ nextPosition s := by unfold nextPosition; split_ifs <;> omega
  rw [isFragmentPos, nextRxPos_toNat]
  simp [hpos]

/-! ## The EMB -/

theorem emb_extract (cc : BitVec 4) (pi : BitVec 1) (lcss : BitVec 2) : (cc ++ pi ++ lcss).extractLsb' 3 4 = cc ∧
    (cc ++ pi ++ lcss).getLsbD 2 = pi.getLsbD 0 ∧ (cc ++ pi ++ lcss).extractLsb' 0 2 = lcss := by
  refine ⟨BitVec.eq_of_getLsbD_eq fun i hi => ?_, ?_, BitVec.extractLsb'_append_eq_right⟩
  · have hlcss : ¬ 3 + i < 2 := by omega
    have hpi : ¬ 3 + i - 2 < 1 := by omega
    have hcc : 3 + i - 2 - 1 = i := by omega
    simp only [BitVec.getLsbD_extractLsb', BitVec.getLsbD_append, hi, hlcss, hpi, hcc, decide_true, Bool.true_and,
      if_false]
  · simp only [BitVec.getLsbD_append]
    rfl

theorem qrDecode_of_near {b : BitVec 264} {v : BitVec 7} (h : dist (embOf b) (qrEncode v) ≤ 2) :
    qrDecode (embOf b) = (v, outcomeOfChanges (dist (embOf b) (qrEncode v))) :=
  nearestWithin_of_dist_le minDistance_qrEncode h

/-! ## The state before the payload is handed over -/

/-- The state u of a burst without a sync whose EMB has been decoded with m changed bits, fragment and abort apart. -/
structure EmbDecoded (s : State) (cc : BitVec 4) (pi : BitVec 1) (lcss : BitVec 2) (m : Nat) (u : State) : Prop where
  result : u.result = decodedResult m
  rx : u.rx = { s.rx with
    pos := nextRxPos s.rx.pos, cc := cc, pi := pi.getLsbD 0, lcss := lcss, fragMask := u.rx.fragMask,
    abort := u.rx.abort }
  status : u.status = s.status
  fecFailCnt : u.fecFailCnt = s.fecFailCnt
  dataOut : loadBuf 256 .dataOut u = 0
  voiceOut : loadBuf 216 .voiceOut u = 0
  rxLc : loadBuf 72 .rxLc u = loadBuf 72 .rxLc s
  stored : StoredOnly [.voiceOut, .dataOut, .rxFrag] s.mem u.mem

/-- What became of the fragment: stored at its position, abandoned, or not looked at (R306, R308). -/
inductive FragmentStep (s : State) (lcss : BitVec 2) (u : State) : Prop
  | stored (hpos : nextPosition s ≤ 4) (habort : s.rx.abort = false) (hlcss : lcss = expectedLcss (nextPosition s))
      (hmask : u.rx.fragMask = s.rx.fragMask ||| BitVec.twoPow 4 (nextPosition s - 1)) (hkeep : u.rx.abort = false)
      (hcnt : u.abortCnt = s.abortCnt) (hfrag : loadBuf 128 .rxFrag u = fragmentsWith s (nextPosition s))
  | abandoned (hpos : nextPosition s ≤ 4) (habort : s.rx.abort = false) (hlcss : lcss ≠ expectedLcss (nextPosition s))
      (hmask : u.rx.fragMask = s.rx.fragMask) (hset : u.rx.abort = true) (hcnt : u.abortCnt = s.abortCnt + 1)
      (hfrag : loadBuf 128 .rxFrag u = loadBuf 128 .rxFrag s)
  | passed (hpass : 4 < nextPosition s ∨ s.rx.abort = true) (hmask : u.rx.fragMask = s.rx.fragMask)
      (hkeep : u.rx.abort = s.rx.abort) (hcnt : u.abortCnt = s.abortCnt)
      (hfrag : loadBuf 128 .rxFrag u = loadBuf 128 .rxFrag s)

section
variable (s : State) (cc : BitVec 4) (pi : BitVec 1) (lcss : BitVec 2) {m : Nat}

/-- The state before the fragment is looked at. -/
theorem embDecoded_noteEmb (hm : m ≤ 255) : EmbDecoded s cc pi lcss m
    (noteEmb (cc ++ pi ++ lcss) (outcomeOfChanges m) (nextRxPos s.rx.pos) (clearOutputs (clearResult s))) := by
  obtain ⟨hcc, hpi, hlcss⟩ := emb_extract cc pi lcss
  constructor
  case result => simp [recordOutcome_changes hm]
  case rx => simp only [noteEmb_rx, clearOutputs_rx, clearResult_rx, hcc, hpi, hlcss]
  case stored =>
    rw [noteEmb_mem]
    exact (clearOutputs_stored (clearResult s)).mono (by decide)
  all_goals simp [loadBuf_storeBuf_other]

end

section
variable {s u : State} {cc : BitVec 4} {pi : BitVec 1} {lcss : BitVec 2} {m : Nat}

theorem EmbDecoded.rx_fields (h : EmbDecoded s cc pi lcss m u) : u.rx.cc = cc ∧ u.rx.pi = pi.getLsbD 0 ∧
    u.rx.lcss = lcss ∧ u.rx.pos.toNat = nextPosition s ∧ u.rx.dt = s.rx.dt ∧ u.rx.syncId = s.rx.syncId := by
  rw [h.rx, ← nextRxPos_toNat]
  exact ⟨rfl, rfl, rfl, rfl, rfl, rfl⟩

theorem EmbDecoded.fragmentStored (h : EmbDecoded s cc pi lcss m u) (p : Nat) :
    EmbDecoded s cc pi lcss m (fragmentStored (received s) p u) where
  result := h.result
  rx := by
    rw [Machine.fragmentStored, storeBuf_rx, withRx_rx, h.rx]
  status := h.status
  fecFailCnt := h.fecFailCnt
  dataOut := by simp [Machine.fragmentStored, loadBuf_storeBuf_other, h.dataOut]
  voiceOut := by simp [Machine.fragmentStored, loadBuf_storeBuf_other, h.voiceOut]
  rxLc := by simp [Machine.fragmentStored, loadBuf_storeBuf_other, h.rxLc]
  stored := by
    rw [Machine.fragmentStored, storeBuf_mem, withRx_mem]
    exact .store (by decide) _ h.stored

theorem EmbDecoded.abortSf (h : EmbDecoded s cc pi lcss m u) : EmbDecoded s cc pi lcss m (abortSf u) where
  result := by rw [abortSf_result, h.result]
  rx := by rw [abortSf_rx, h.rx]
  status := by rw [abortSf_status, h.status]
  fecFailCnt := by rw [abortSf_fecFailCnt, h.fecFailCnt]
  dataOut := by rw [loadBuf_abortSf, h.dataOut]
  voiceOut := by rw [loadBuf_abortSf, h.voiceOut]
  rxLc := by rw [loadBuf_abortSf, h.rxLc]
  stored := by rw [abortSf_mem]; exact h.stored

/-- Taking the fragment, case by case of R306 and R308. -/
theorem EmbDecoded.takeFragment (h : EmbDecoded s cc pi lcss m u) (hmask : u.rx.fragMask = s.rx.fragMask)
    (habort : u.rx.abort = s.rx.abort) (hcnt : u.abortCnt = s.abortCnt)
    (hfrag : loadBuf 128 .rxFrag u = loadBuf 128 .rxFrag s) :
    EmbDecoded s cc pi lcss m (takeFragment (received s) (nextRxPos s.rx.pos) u) ∧
      FragmentStep s lcss (takeFragment (received s) (nextRxPos s.rx.pos) u) := by
  have hlcss : u.rx.lcss = lcss := by rw [h.rx]
  rw [takeFragment_eq, isFragmentPos_next, habort, hlcss, nextRxPos_toNat]
  by_cases hlook : nextPosition s ≤ 4 ∧ s.rx.abort = false
  · obtain ⟨hpos, hkeep⟩ := hlook
    have hfirst : 1 ≤ nextPosition s := by unfold nextPosition; split_ifs <;> omega
    rw [if_pos (by simp [hpos, hkeep]), lcssOf_eq_expected _ hpos hfirst]
    split_ifs with hexp
    · refine ⟨h.fragmentStored _, .stored hpos hkeep hexp ?_ ?_ ?_ ?_⟩
      · rw [Machine.fragmentStored, storeBuf_rx, withRx_rx, hmask]
      · rw [Machine.fragmentStored, storeBuf_rx, withRx_rx, habort, hkeep]
      · rw [Machine.fragmentStored, storeBuf_abortCnt, withRx_abortCnt, hcnt]
      · rw [loadBuf_fragmentStored, hfrag]
    · refine ⟨h.abortSf, .abandoned hpos hkeep hexp ?_ ?_ ?_ ?_⟩
      · rw [abortSf_rx, hmask]
      · rw [abortSf_rx]
      · rw [abortSf_abortCnt, habort, hkeep, hcnt]; rfl
      · rw [loadBuf_abortSf, hfrag]
  · rw [if_neg (by simpa using hlook)]
    have hpass : 4 < nextPosition s ∨ s.rx.abort = true := by
      rw [not_and_or, Bool.not_eq_false] at hlook
      exact hlook.imp_left Nat.not_le.mp
    exact ⟨h, .passed hpass hmask habort hcnt hfrag⟩

theorem embTaken_decoded (s : State) (cc : BitVec 4) (pi : BitVec 1) (lcss : BitVec 2) (hm : m ≤ 255) :
    EmbDecoded s cc pi lcss m (embTaken (cc ++ pi ++ lcss) (outcomeOfChanges m) (received s) (clearResult s)) ∧
      FragmentStep s lcss (embTaken (cc ++ pi ++ lcss) (outcomeOfChanges m) (received s) (clearResult s)) :=
  (embDecoded_noteEmb s cc pi lcss hm).takeFragment rfl rfl rfl (by simp [loadBuf_storeBuf_other])

theorem rxBurst_of_emb (hsync : NoSync s)
    (hm : m = dist (embOf (received s)) (qrEncode (cc ++ pi ++ lcss))) (hm2 : m ≤ 2) :
    rxBurst (clearResult s) = finishEmbedded (received s) (nextRxPos s.rx.pos)
      (embTaken (cc ++ pi ++ lcss) (outcomeOfChanges m) (received s) (clearResult s)) := by
  have hdecode := qrDecode_of_near (hm ▸ hm2)
  rw [← hm] at hdecode
  rw [rxBurst_of_noSync hsync, rxEmbedded_of_decodes hdecode (outcomeOfChanges_ne_fail m), clearResult_rx]

end

/-- The burst at E with all four fragments (R306, R309). -/
theorem finishEmbedded_of_fail {b : BitVec 264} {u : State} (hkeep : u.rx.abort = false) (hmask : u.rx.fragMask = 0xF)
    (h : (embDecode (loadBuf 128 .rxFrag u)).2 = .fail) : finishEmbedded b 4 u = dropBurst u := by
  unfold finishEmbedded
  rw [if_pos ⟨rfl, hkeep, hmask⟩, assembleLc_of_fail h]

theorem finishEmbedded_of_decodes {b : BitVec 264} {u : State} {l : BitVec 72} {o : DecOutcome}
    (hkeep : u.rx.abort = false) (hmask : u.rx.fragMask = 0xF) (h : embDecode (loadBuf 128 .rxFrag u) = (l, o))
    (ho : o ≠ .fail) : finishEmbedded b 4 u = handOverVoice b 3 (surfaceLc l (noteOutcome o u)) := by
  unfold finishEmbedded
  rw [if_pos ⟨rfl, hkeep, hmask⟩, assembleLc_of_decodes h ho]

theorem embDecode_outcome {e : BitVec 128} (h : (embDecode e).2 ≠ .fail) :
    ∃ l n, n ≤ 128 ∧ embDecode e = (l, outcomeOfChanges n) := by
  rcases hdecode : embDecode e with ⟨l, o⟩
  rw [hdecode] at h
  exact ⟨l, _, dist_le _ _, by rw [dist_of_embDecode hdecode h]⟩

end Sys2Proof.Machine

namespace Sys2Proof.Claims

open Sys2Proof.Machine

/-- Settles O54. -/
theorem rxUndecodableEmbIsDropped : Obligations.RxUndecodableEmbIsDropped := by
  intro s hsync hfar
  have hemb : (qrDecode (embOf (received s))).2 = .fail := congrArg Prod.snd (nearestWithin_of_lt_dist hfar)
  have hburst : rxBurst (clearResult s) = rxEmbFail (nextRxPos s.rx.pos) (clearOutputs (clearResult s)) := by
    rw [rxBurst_of_noSync hsync, rxEmbedded_of_fail hemb, clearOutputs_rx, clearResult_rx]
  refine ⟨_, exec_rxBurst_of_eq hburst, rxFrame_of_stored hburst (rxEmbFail_stored _ (clearResult s)), ?_⟩
  have hfrag := isFragmentPos_next s
  by_cases hpos : nextPosition s ≤ 4
  · rw [rxEmbFail, hfrag, if_pos (decide_eq_true hpos)]
    cases habort : s.rx.abort <;>
      simp [OnlyDoneSet, loadBuf_storeBuf_other, nextRxPos_eq, hpos, habort]
  · rw [rxEmbFail, hfrag, if_neg (by simpa using hpos)]
    simp [OnlyDoneSet, loadBuf_storeBuf_other, nextRxPos_eq, hpos]

/-- Settles O55. -/
theorem rxEmbeddedTracksThePosition : Obligations.RxEmbeddedTracksThePosition := by
  rintro s cc pi lcss m p hsync hm hm2 rfl hnot
  have hburst := rxBurst_of_emb hsync hm hm2
  obtain ⟨hu, hstep⟩ := embTaken_decoded s cc pi lcss (m := m) (by omega)
  generalize embTaken (cc ++ pi ++ lcss) (outcomeOfChanges m) (received s) (clearResult s) = u at hburst hu hstep
  have hfinish : finishEmbedded (received s) (nextRxPos s.rx.pos) u = handOverVoice (received s) 3 u := by
    refine if_neg ?_
    rintro ⟨hE, habort, hmask⟩
    have hp : nextPosition s = 4 := by rw [← nextRxPos_toNat, hE]; rfl
    cases hstep with
    | stored _ hkeep hlcss hfull =>
      rw [hp] at hlcss hfull
      exact hnot ⟨hp, hkeep, hlcss, hfull.symm.trans hmask⟩
    | abandoned _ _ _ _ hset => rw [hset] at habort; cases habort
    | passed hpass _ hkeep =>
      rw [hp] at hpass
      rw [hkeep] at habort
      simp [habort] at hpass
  rw [hfinish] at hburst
  refine ⟨_, exec_rxBurst_of_eq hburst, rxFrame_of_stored hburst ?_, ?_⟩
  · rw [handOverVoice_mem, storeBuf_mem]
    exact .store (by decide) _ hu.stored
  obtain ⟨hcc, hpi, hlcss, hpos, hdt, hid⟩ := hu.rx_fields
  have hsame : loadBuf 128 .rxFrag (setDone (handOverVoice (received s) 3 u)) = loadBuf 128 .rxFrag u := by
    simp [loadBuf_storeBuf_other]
  refine ⟨by simp [OnlyDoneSet, hu.status], by simp [hu.result], hu.fecFailCnt, by simp,
    by simp [loadBuf_storeBuf_other, hu.dataOut], hcc, hpi, hlcss, hpos, hdt, hid, ?_⟩
  rw [hsame]
  cases hstep with
  | stored hreach hrun hexp hmask hkeep hcnt hfrag =>
    exact ⟨fun _ => ⟨hmask, hkeep, hcnt, hfrag⟩, fun h => absurd hexp h.2.2, fun h => by simp [hrun] at h; omega⟩
  | abandoned hreach hrun hexp hmask hset hcnt hfrag =>
    exact ⟨fun h => absurd h.2.2 hexp, fun _ => ⟨hmask, hset, hcnt, hfrag⟩, fun h => by simp [hrun] at h; omega⟩
  | passed hpass hmask hkeep hcnt hfrag =>
    refine ⟨fun h => ?_, fun h => ?_, fun _ => ⟨hmask, hkeep, hcnt, hfrag⟩⟩ <;> simp [h.2.1] at hpass <;> omega

/-- Settles O56: by what the four fragments decode to. -/
theorem rxAssemblesTheLcAtE : Obligations.RxAssemblesTheLcAtE := by
  intro s cc pi m hsync hm hm2 hpos habort hfull
  have hburst := rxBurst_of_emb hsync hm hm2
  obtain ⟨hu, hstep⟩ := embTaken_decoded s cc pi 2#2 (m := m) (by omega)
  generalize embTaken (cc ++ pi ++ 2#2) (outcomeOfChanges m) (received s) (clearResult s) = u at hburst hu hstep
  have hnext : nextRxPos s.rx.pos = 4 := by rw [hpos]; rfl
  have hp : nextPosition s = 4 := by rw [← nextRxPos_toNat, hnext]; rfl
  obtain ⟨hmask, hkeep, hcnt, hfrag⟩ : u.rx.fragMask = 0xF ∧ u.rx.abort = false ∧ u.abortCnt = s.abortCnt ∧
      loadBuf 128 .rxFrag u = fragmentsWith s 4 := by
    cases hstep with
    | stored _ _ _ hmask hkeep hcnt hfrag =>
      rw [hp] at hmask hfrag
      exact ⟨hmask.trans hfull, hkeep, hcnt, hfrag⟩
    | abandoned _ _ hexp => exact absurd (by rw [hp]; rfl) hexp
    | passed hpass => simp [hp, habort] at hpass
  have hrx : u.rx = { s.rx with pos := 4, fragMask := 0xF, cc := cc, pi := pi.getLsbD 0, lcss := 2 } := by
    rw [hu.rx, hmask, hkeep, hnext, ← habort]
    rfl
  rw [hnext] at hburst
  by_cases hfail : (embDecode (fragmentsWith s 4)).2 = .fail
  · have hno (l : BitVec 72) (n : Nat) : embDecode (fragmentsWith s 4) ≠ (l, outcomeOfChanges n) := fun h =>
      outcomeOfChanges_ne_fail n ((congrArg Prod.snd h).symm.trans hfail)
    rw [finishEmbedded_of_fail hkeep hmask (by rw [hfrag, hfail])] at hburst
    refine ⟨_, exec_rxBurst_of_eq hburst, rxFrame_of_stored hburst (hu.stored.mono (by decide)), hrx, hcnt, hfrag,
      hu.dataOut, fun l n h => absurd h (hno l n), fun _ => ?_⟩
    simp [OnlyDoneSet, hu.result, hu.status, hu.fecFailCnt, hu.rxLc, hu.voiceOut]
  · obtain ⟨l, n, hn, hlc⟩ := embDecode_outcome hfail
    have hadd := recordOutcome_changes_add (m := m) (n := n) (by omega) (decodedResult m) rfl rfl
    rw [finishEmbedded_of_decodes hkeep hmask (by rw [hfrag, hlc]) (outcomeOfChanges_ne_fail n)] at hburst
    refine ⟨_, exec_rxBurst_of_eq hburst, rxFrame_of_stored hburst ?_, hrx, hcnt, ?_, ?_, fun l' n' h => ?_,
      fun h => absurd h hfail⟩
    · rw [handOverVoice_mem, storeBuf_mem, surfaceLc_mem, storeBuf_mem]
      exact .store (by decide) _ (.store (by decide) _ (hu.stored.mono (by decide)))
    · simp [loadBuf_storeBuf_other, hfrag]
    · simp [loadBuf_storeBuf_other, hu.dataOut]
    · obtain ⟨rfl, ho⟩ := Prod.mk.inj (hlc.symm.trans h)
      obtain rfl := outcomeOfChanges_injective ho
      have hresult : (noteOutcome (outcomeOfChanges n) u).result = decodedResult (m + n) := by
        rw [noteOutcome_result, hu.result]
        exact hadd
      refine ⟨by simp [loadBuf_storeBuf_other], ?_, by simp [hu.status], hu.fecFailCnt, by simp⟩
      simp only [setDone_result, handOverVoice_result, surfaceLc_result, hresult]

end Sys2Proof.Claims
end

section
/-! PROOFS. Bursts looped back from the transmit framer to the receive deframer (42_burst_rx.md R312): a header or a
terminator, and a call of one superframe with its terminator. -/

namespace Sys2Proof.Machine

open Sys2Proof.Claims

/-! ## Buffers outside a frame -/

theorem loadBuf_of_memSameOutside {bufs : List Buf} {s t : State} (h : MemSameOutside bufs s t) (w : Nat) {b : Buf}
    (hb : b ∉ bufs) : loadBuf w b t = loadBuf w b s :=
  loadBuf_congr w b t s fun a ha => h a fun c hc => by
    by_contra hin
    exact hb (inBuf_unique c b a (by simpa using hin) ha ▸ hc)

/-! ## The sync of a sent burst -/

theorem voiceSyncIndex_even (o : SyncOrigin) (ts : Bool) :
    voiceSyncIndex o ts + 1 < 8 ∧ voiceSyncIndex o ts % 2 = 0 := by
  cases o <;> cases ts <;> decide

theorem syncWord_voice_eq (o : SyncOrigin) (ts : Bool) : syncWord o false ts = syncPattern (voiceSyncIndex o ts) :=
  (syncOf_voice o ts).symm

theorem syncWord_data_eq (o : SyncOrigin) (ts : Bool) : syncWord o true ts = syncPattern (voiceSyncIndex o ts + 1) :=
  (syncOf_data o ts).symm

/-! ## A header or a terminator looped back -/

/-- The state in which the burst b, built from state t, is given to RX_BURST. -/
abbrev givenBack (b : BitVec 264) (t : State) : State := storeBuf .burstIn b t

/-- A sent burst, given back unchanged, is the burst received. -/
theorem received_sentState (b : BitVec 264) (x : TxState) (s : State) :
    received (givenBack (loadBuf 264 .burstOut (sentState b x s)) (sentState b x s)) = b :=
  (loadBuf_storeBuf_burstIn _ _).trans (loadBuf_sentState_burstOut b x s)

/-- A burst with the Full LC of LC_ACT, received unchanged in a state r (R241, R243, R303). -/
theorem exec_rxBurst_of_sent_lcBurst {s r : State} {dt : BitVec 4} (hdt : dt = 1 ∨ dt = 2)
    (hr : received r = lcBurst dt s) :
    ∃ t, exec .rxBurst r = .next t ∧ RxFrame [.voiceOut, .dataOut, .rxFrag, .rxLc] r t ∧
      (t.rx.pos = 7 ∧ t.rx.cc = s.act.cc ∧ t.rx.dt = dt) ∧ t.abortCnt = abortsWithSync r ∧
      t.fecFailCnt = r.fecFailCnt ∧ loadBuf 72 .rxLc t = loadBuf 72 .lcAct s ∧
      t.result = { clearedResult with lc := true, rxClass := 1 } ∧
      t.status = { r.status with done := true, lcEv := true } := by
  obtain ⟨hinfo, hslot, hcenter⟩ := lcBurst_fields dt s
  obtain ⟨hlt, heven⟩ := voiceSyncIndex_even s.ctrl.syncOrigin s.act.ts
  rw [← hr] at hinfo hslot hcenter
  have hsync := nearSync_of_center_eq hlt (hcenter.trans (syncWord_data_eq _ _))
  obtain ⟨t, hexec, hframe, hrx, habort, hfec, hlc, hresult, hstatus⟩ :=
    exec_rxBurst_of_lcBurst hsync (by omega) hslot hdt hinfo
  exact ⟨t, hexec, hframe, ⟨by rw [hrx], by rw [hrx], by rw [hrx]⟩, habort, hfec, hlc, hresult, hstatus⟩

theorem lcBurst_roundTrip {dt : BitVec 4} (hdt : dt = 1 ∨ dt = 2) (x : TxState) (s : State) :
    ∃ u, exec .rxBurst
        (givenBack (loadBuf 264 .burstOut (sentState (lcBurst dt s) x s)) (sentState (lcBurst dt s) x s)) = .next u ∧
      loadBuf 72 .rxLc u = loadBuf 72 .lcAct s ∧ resultWord u.result = 0x00000014 ∧ u.status.lcEv = true ∧ u.rx.cc = s.act.cc ∧ u.rx.dt = dt ∧ u.fecFailCnt = s.fecFailCnt := by
  obtain ⟨u, hrx, -, ⟨-, hcc, hdt⟩, -, hfec, hlc, hresult, hstatus⟩ :=
    exec_rxBurst_of_sent_lcBurst hdt (received_sentState (lcBurst dt s) x s)
  exact ⟨u, hrx, hlc, by rw [hresult]; decide, by rw [hstatus], hcc, hdt, hfec⟩

end Sys2Proof.Machine

namespace Sys2Proof.Claims

open Sys2Proof.Machine

/-- Settles O59: product code, parity, slot type and sync of the sent burst are all exact. -/
theorem headerRoundTrip : Obligations.HeaderRoundTrip := by
  intro s t hactive
  refine ⟨fun hexec => ?_, fun hexec => ?_⟩
  · obtain rfl := Host.Outcome.next.inj (hexec.symm.trans (exec_txHdr hactive))
    exact lcBurst_roundTrip (.inl rfl) s.tx s
  · obtain rfl := Host.Outcome.next.inj (hexec.symm.trans (exec_txTerm hactive))
    exact lcBurst_roundTrip (.inr rfl) { pos := 0, active := false } s

end Sys2Proof.Claims
end

section
/-! PROOFS. A call of one superframe fed back in order (42_burst_rx.md R312): what the framer and the deframer hold
between the bursts, and each burst's step. -/

namespace Sys2Proof.Machine

open Sys2Proof.Claims

/-! ## Voice bursts without a sync -/

theorem wt_bits_eq_sum {w a n : Nat} (s : BitVec w) (h : a + n ≤ w) :
    wt (bits s a n) = ∑ i ∈ Finset.Ico a (a + n), (s.getMsbD i).toNat := by
  rw [wt_eq_sum, Finset.sum_Ico_eq_sum_range, Nat.add_sub_cancel_left]
  refine Finset.sum_congr rfl fun i hi => ?_
  rw [getMsbD_bits _ _ _ _ h]
  simp [Finset.mem_range.mp hi]

/-- Two parts of a string that do not overlap are at most as heavy as the string. -/
theorem wt_bits_add_le {w a n b m : Nat} (s : BitVec w) (hab : a + n ≤ b) (hb : b + m ≤ w) :
    wt (bits s a n) + wt (bits s b m) ≤ wt s := by
  have hdisjoint : Disjoint (Finset.Ico a (a + n)) (Finset.Ico b (b + m)) :=
    Finset.disjoint_left.mpr fun i hi hj => by simp only [Finset.mem_Ico] at hi hj; omega
  rw [wt_bits_eq_sum s (by omega), wt_bits_eq_sum s hb, wt_eq_sum, ← Finset.sum_union hdisjoint]
  refine Finset.sum_le_sum_of_subset fun i hi => ?_
  simp only [Finset.mem_union, Finset.mem_Ico, Finset.mem_range] at hi ⊢
  omega

theorem dist_bits_add_le {w a n b m : Nat} (s t : BitVec w) (hab : a + n ≤ b) (hb : b + m ≤ w) :
    dist (bits s a n) (bits t a n) + dist (bits s b m) (bits t b m) ≤ dist s t := by
  rw [dist, dist, ← bits_xor, ← bits_xor]
  exact wt_bits_add_le _ hab hb

/-- The EMB bits alone are two or more bits away from those of every pattern. -/
theorem embField_far : ∀ (cc : BitVec 4) (lcss : BitVec 2), ∀ k < 8,
    2 ≤ dist (bits (qrEncode (cc ++ 0#1 ++ lcss)) 0 8) (bits (syncPattern k) 0 8) +
      dist (bits (qrEncode (cc ++ 0#1 ++ lcss)) 8 8) (bits (syncPattern k) 40 8) := by decide +kernel

theorem bits_embCenter (emb : BitVec 16) (data : BitVec 32) :
    bits (embCenter emb data) 0 8 = bits emb 0 8 ∧ bits (embCenter emb data) 40 8 = bits emb 8 8 := by
  refine ⟨?_, (bits_append_right (m := 40) (p := 0) _ (bits emb 8 8) (by decide)).trans (bits_zero_self _)⟩
  unfold embCenter
  rw [bits_append_left (_ ++ _) (bits emb 8 8) (by decide), bits_append_left (bits emb 0 8) data (by decide),
    bits_zero_self]

theorem embCenter_far (cc : BitVec 4) (lcss : BitVec 2) (data : BitVec 32) {k : Nat} (hk : k < 8) :
    2 ≤ dist (embCenter (qrEncode (cc ++ 0#1 ++ lcss)) data) (syncPattern k) := by
  obtain ⟨hfirst, hlast⟩ := bits_embCenter (qrEncode (cc ++ 0#1 ++ lcss)) data
  have hparts := dist_bits_add_le (embCenter (qrEncode (cc ++ 0#1 ++ lcss)) data) (syncPattern k) (a := 0) (n := 8)
    (b := 40) (m := 8) (by decide) (by decide)
  rw [hfirst, hlast] at hparts
  exact (embField_far cc lcss k hk).trans hparts

/-! ## The fragments received so far -/

/-- The first n bits of a string, zeros after them. -/
def prefixOf {w : Nat} (e : BitVec w) (n : Nat) : BitVec w := mkBits w fun j => decide (j < n) && e.getMsbD j

section
variable {w : Nat} (e : BitVec w)

theorem prefixOf_zero : prefixOf e 0 = 0 := eq_of_getMsbD fun i _ => by simp [prefixOf]

theorem prefixOf_self : prefixOf e w = e := eq_of_getMsbD fun i hi => by simp [prefixOf, hi]

theorem setBits_prefixOf {n m : Nat} (h : n + m ≤ w) : setBits (prefixOf e n) n (bits e n m) = prefixOf e (n + m) := by
  refine eq_of_getMsbD fun i hi => ?_
  rw [getMsbD_setBits, prefixOf, prefixOf, getMsbD_mkBits, getMsbD_mkBits]
  split_ifs with hin
  · have hlt : i - n < m := by omega
    rw [getMsbD_bits _ _ _ _ h, Nat.add_sub_cancel' hin.1]
    simp [hi, hin.2, hlt]
  · have hsame : i < n ↔ i < n + m := by omega
    simp [hsame]

end

/-! ## The call -/

/-- The call of the shadow context of s, after n voice bursts: what transmit commands and bursts received leave. -/
structure InCall (s : State) (n : Nat) (u : State) : Prop where
  ctrl : u.ctrl = s.ctrl
  ctx : u.ctx = s.ctx
  act : u.act = s.ctx
  tx : u.tx = { pos := BitVec.ofNat 3 (n % 6), active := true }
  lcAct : loadBuf 72 .lcAct u = buildLc s.ctx
  embTx : loadBuf 128 .embTx u = embEncode (buildLc s.ctx)
  fecFailCnt : u.fecFailCnt = s.fecFailCnt
  abortCnt : u.abortCnt = s.abortCnt

/-- Reassembly has taken the fragments of positions 1 to p of the call's embedded LC. -/
structure Reassembling (s : State) (p : Nat) (u : State) : Prop where
  pos : u.rx.pos.toNat = p
  abort : u.rx.abort = false
  fragMask : u.rx.fragMask = BitVec.ofNat 4 (2 ^ p - 1)
  rxFrag : loadBuf 128 .rxFrag u = prefixOf (embEncode (buildLc s.ctx)) (32 * p)

theorem inCall_startedState (s : State) : InCall s 0 (startedState s) :=
  ⟨rfl, rfl, rfl, rfl, loadBuf_latch_lcAct (clearResult s), loadBuf_latch_embTx (clearResult s), rfl, rfl⟩

section
variable {s u t : State} {n : Nat}

theorem InCall.storeBuf (h : InCall s n u) {w : Nat} {b : Buf} (v : BitVec w) (hlc : b ≠ .lcAct) (hemb : b ≠ .embTx) :
    InCall s n (storeBuf b v u) :=
  ⟨h.ctrl, h.ctx, h.act, h.tx, (loadBuf_storeBuf_other _ _ _ _ _ hlc.symm).trans h.lcAct,
    (loadBuf_storeBuf_other _ _ _ _ _ hemb.symm).trans h.embTx, h.fecFailCnt, h.abortCnt⟩

theorem InCall.latch (h : InCall s n u) : InCall s n (latch u) :=
  ⟨h.ctrl, h.ctx, h.ctx, h.tx, by rw [loadBuf_latch_lcAct, h.ctx], by rw [loadBuf_latch_embTx, h.ctx], h.fecFailCnt,
    h.abortCnt⟩

theorem InCall.sent (h : InCall s n u) (b : BitVec 264) : InCall s (n + 1) (sentState b (nextTx u) u) where
  ctrl := h.ctrl
  ctx := h.ctx
  act := h.act
  tx := by
    have hpos : (BitVec.ofNat 3 (n % 6)).toNat = n % 6 := Nat.mod_eq_of_lt (by omega)
    rw [sentState_tx, nextTx, h.tx, hpos, Nat.mod_add_mod]
  lcAct := (loadBuf_sentState_other _ _ _ _ (by decide)).trans h.lcAct
  embTx := (loadBuf_sentState_other _ _ _ _ (by decide)).trans h.embTx
  fecFailCnt := h.fecFailCnt
  abortCnt := h.abortCnt

theorem InCall.after_burst (h : InCall s n u) {bufs : List Buf} (hframe : RxFrame bufs u t) (hlc : .lcAct ∉ bufs)
    (hemb : .embTx ∉ bufs) (hfec : t.fecFailCnt = u.fecFailCnt) (habort : t.abortCnt = u.abortCnt) : InCall s n t := by
  obtain ⟨⟨hctrl, hctx, -⟩, ⟨hact, htx⟩, hmem⟩ := hframe
  exact ⟨hctrl.trans h.ctrl, hctx.trans h.ctx, hact.trans h.act, htx.trans h.tx,
    (loadBuf_of_memSameOutside hmem _ hlc).trans h.lcAct, (loadBuf_of_memSameOutside hmem _ hemb).trans h.embTx,
    hfec.trans h.fecFailCnt, habort.trans h.abortCnt⟩

end

/-! ## What is sent -/

/-- The center of voice burst n of the call. -/
def callCenter (s : State) (n : Nat) : BitVec 48 :=
  if n = 0 then syncPattern (voiceSyncIndex s.ctrl.syncOrigin s.ctx.ts)
  else if n ≤ 4 then embCenter (qrEncode (s.ctx.cc ++ 0#1 ++ expectedLcss n))
    (bits (embEncode (buildLc s.ctx)) (32 * (n - 1)) 32)
  else embCenter (qrEncode (s.ctx.cc ++ 0#1 ++ 0#2)) 0

section
variable {s u u' : State} {n : Nat} {v : BitVec 216} {b : BitVec 264}

theorem InCall.pos_toNat (h : InCall s n u) (hn : n < 6) : u.tx.pos.toNat = n := by
  rw [h.tx]
  show n % 6 % 8 = n
  omega

theorem InCall.voiceCenter (h : InCall s n u) (hn : n < 6) : voiceCenter u = callCenter s n := by
  have hpos := h.pos_toNat hn
  unfold callCenter
  split_ifs with h0 h4
  · rw [voiceCenter_first (BitVec.eq_of_toNat_eq (hpos.trans h0)), syncWord_voice_eq, h.ctrl, h.act]
  · rw [voiceCenter_fragment (by omega) (by omega), hpos, h.act, h.embTx]
  · rw [voiceCenter_last (by omega), h.act]

/-- The state r in which voice burst n of the call is given to RX_BURST. -/
theorem loopedBack_voice (hvalid : ValidContext s.ctx) (h : InCall s n u) (hn : n < 6)
    (hloop : LoopedBack .txVoice v u b u') : ∃ r, exec .rxBurst r = .next u' ∧ received r = b ∧
      b = voiceBurst v (callCenter s n) ∧ InCall s (n + 1) r ∧ r.rx = u.rx ∧
      loadBuf 128 .rxFrag r = loadBuf 128 .rxFrag u := by
  obtain ⟨t, hsend, hb, hreceive⟩ := hloop
  have hput := h.storeBuf v (b := .voiceIn) (by decide) (by decide)
  obtain ⟨q, hq, hrx, hfrag, hin, rfl⟩ : ∃ q, InCall s n q ∧ q.rx = u.rx ∧
      loadBuf 128 .rxFrag q = loadBuf 128 .rxFrag u ∧ loadBuf 216 .voiceIn q = v ∧
      t = sentState (voiceBurstOf q) (nextTx q) q := by
    have hsame : loadBuf 128 .rxFrag (storeBuf .voiceIn v u) = loadBuf 128 .rxFrag u :=
      loadBuf_storeBuf_other _ _ _ _ _ (by decide)
    have hactive : (storeBuf .voiceIn v u).tx.active = true := by rw [hput.tx]
    by_cases h0 : n = 0
    · have hpos : (storeBuf .voiceIn v u).tx.pos = 0 := BitVec.eq_of_toNat_eq ((hput.pos_toNat hn).trans h0)
      rw [exec_txVoice_first hactive hpos (by rw [hput.ctx]; exact hvalid)] at hsend
      refine ⟨_, hput.latch, rfl, ?_, ?_, (Host.Outcome.next.inj hsend).symm⟩
      · rw [loadBuf_latch_other _ (by decide) (by decide), hsame]
      · rw [loadBuf_latch_other _ (by decide) (by decide), loadBuf_storeBuf_voiceIn]
    · have hpos : (storeBuf .voiceIn v u).tx.pos ≠ 0 := fun h => h0 (by rw [← hput.pos_toNat hn, h]; rfl)
      rw [exec_txVoice_next hactive hpos] at hsend
      exact ⟨_, hput, rfl, hsame, loadBuf_storeBuf_voiceIn _ _, (Host.Outcome.next.inj hsend).symm⟩
  rw [loadBuf_sentState_burstOut, voiceBurstOf, hin, hq.voiceCenter hn] at hb
  refine ⟨_, hreceive, loadBuf_storeBuf_burstIn _ _, hb, (hq.sent _).storeBuf b (by decide) (by decide), hrx, ?_⟩
  rw [loadBuf_storeBuf_other _ _ _ _ _ (by decide), loadBuf_sentState_other _ _ _ _ (by decide), hfrag]

end

/-! ## What is received -/

/-- A sync burst at position F or in UNSYNC abandons nothing. -/
theorem abortsWithSync_of_pos {s : State} (h : s.rx.pos = 5 ∨ s.rx.pos = 7) : abortsWithSync s = s.abortCnt := by
  refine if_neg ?_
  rintro ⟨-, -, hpos⟩
  revert h hpos
  generalize s.rx.pos = pos
  revert pos
  decide

section
variable {s q u' : State} {n : Nat} {dt : BitVec 4} {x : TxState}

theorem InCall.sentLc (h : InCall s n q) (b : BitVec 264) : InCall s n (sentState b q.tx q) :=
  ⟨h.ctrl, h.ctx, h.act, h.tx, (loadBuf_sentState_other _ _ _ _ (by decide)).trans h.lcAct,
    (loadBuf_sentState_other _ _ _ _ (by decide)).trans h.embTx, h.fecFailCnt, h.abortCnt⟩

/-- A header or terminator of the call, received in a state r where no reassembly is pending. -/
theorem InCall.receives_lcBurst {r : State} (h : InCall s n q) (hdt : dt = 1 ∨ dt = 2)
    (hreceived : received r = lcBurst dt q) (hpos : r.rx.pos = 5 ∨ r.rx.pos = 7) (hfec : r.fecFailCnt = q.fecFailCnt)
    (habort : r.abortCnt = q.abortCnt) (hreceive : exec .rxBurst r = .next u') :
    RxFrame [.voiceOut, .dataOut, .rxFrag, .rxLc] r u' ∧ u'.rx.pos = 7 ∧ u'.rx.dt = dt ∧
      u'.fecFailCnt = s.fecFailCnt ∧ u'.abortCnt = s.abortCnt ∧ loadBuf 72 .rxLc u' = buildLc s.ctx ∧
      resultWord u'.result = 0x14 := by
  obtain ⟨t, hexec, hframe, ⟨hunsync, -, htype⟩, hcnt, hfec', hlc, hresult, -⟩ :=
    exec_rxBurst_of_sent_lcBurst hdt hreceived
  obtain rfl := Host.Outcome.next.inj (hexec.symm.trans hreceive)
  rw [abortsWithSync_of_pos hpos] at hcnt
  exact ⟨hframe, hunsync, htype, hfec'.trans (hfec.trans h.fecFailCnt), hcnt.trans (habort.trans h.abortCnt),
    hlc.trans h.lcAct, by rw [hresult]; decide⟩

end

/-- The host admits no pattern near burst b (the premise of log 11). -/
abbrev ClearOfSync (s : State) (b : BitVec 264) : Prop :=
  s.ctrl.syncTol.toNat ≤ 1 ∨ ∀ k, k < 8 → s.ctrl.syncTol.toNat < syncDistance b k

section
variable {s u u' : State} {n : Nat} {v : BitVec 216} {b : BitVec 264}

theorem noSync_of_embCenter {cc : BitVec 4} {lcss : BitVec 2} {data : BitVec 32} (hctrl : u.ctrl = s.ctrl)
    (hclear : ClearOfSync s (received u))
    (hcenter : centerOf (received u) = embCenter (qrEncode (cc ++ 0#1 ++ lcss)) data) : NoSync u := by
  intro k hk
  rw [hctrl]
  refine hclear.elim (fun htol => ?_) fun h => h k hk
  have hfar := embCenter_far cc lcss data hk
  rw [← hcenter] at hfar
  exact htol.trans_lt hfar

/-- The voice burst at A starts reassembly. -/
theorem callStep_first (hvalid : ValidContext s.ctx) (h : InCall s 0 u) (hpos : u.rx.pos = 7)
    (hloop : LoopedBack .txVoice v u b u') : InCall s 1 u' ∧ Reassembling s 0 u' ∧
      resultWord u'.result = 0x28 ∧ loadBuf 216 .voiceOut u' = v := by
  obtain ⟨r, hreceive, hr, rfl, hcall, hrx, -⟩ := loopedBack_voice hvalid h (by decide) hloop
  obtain ⟨hlt, heven⟩ := voiceSyncIndex_even s.ctrl.syncOrigin s.ctx.ts
  have hcenter : centerOf (received r) = syncPattern (voiceSyncIndex s.ctrl.syncOrigin s.ctx.ts) := by
    rw [hr, centerOf_voiceBurst]
    rfl
  obtain ⟨t, hexec, hframe, -, hresult, hrx', hfec, habort, hvoice, -, hfrag⟩ :=
    exec_rxBurst_of_voiceSync (nearSync_of_center_eq (by omega) hcenter) heven
  obtain rfl := Host.Outcome.next.inj (hexec.symm.trans hreceive)
  rw [abortsWithSync_of_pos (.inr (by rw [hrx, hpos]))] at habort
  refine ⟨hcall.after_burst hframe (by decide) (by decide) hfec habort, ?_, by rw [hresult]; decide, ?_⟩
  · exact ⟨by rw [hrx']; rfl, by rw [hrx'], by rw [hrx']; rfl, by rw [hfrag, Nat.mul_zero, prefixOf_zero]⟩
  · rw [hvoice, hr, voiceOf_voiceBurst]

/-- The state r in which a burst at B to F is received, with what the deframer reads of it. -/
theorem loopedBack_embedded (hvalid : ValidContext s.ctx) (h : InCall s n u) (h1 : 1 ≤ n) (h5 : n ≤ 5)
    (hclear : ClearOfSync s b) (hloop : LoopedBack .txVoice v u b u') : ∃ r, exec .rxBurst r = .next u' ∧
      voiceOf (received r) = v ∧
      embOf (received r) = qrEncode (s.ctx.cc ++ 0#1 ++ if n ≤ 4 then expectedLcss n else 0#2) ∧
      (n ≤ 4 → embDataOf (received r) = bits (embEncode (buildLc s.ctx)) (32 * (n - 1)) 32) ∧ NoSync r ∧
      InCall s (n + 1) r ∧ r.rx = u.rx ∧ loadBuf 128 .rxFrag r = loadBuf 128 .rxFrag u := by
  obtain ⟨r, hreceive, hr, hb, hcall, hrx, hfrag⟩ := loopedBack_voice hvalid h (by omega) hloop
  obtain ⟨data, hcenter, hdata⟩ : ∃ data : BitVec 32, callCenter s n =
      embCenter (qrEncode (s.ctx.cc ++ 0#1 ++ if n ≤ 4 then expectedLcss n else 0#2)) data ∧
      (n ≤ 4 → data = bits (embEncode (buildLc s.ctx)) (32 * (n - 1)) 32) := by
    unfold callCenter
    rw [if_neg (by omega : n ≠ 0)]
    split_ifs with h4
    · exact ⟨_, rfl, fun _ => rfl⟩
    · exact ⟨0, rfl, fun h => absurd h h4⟩
  rw [hcenter, ← hr] at hb
  refine ⟨r, hreceive, by rw [hb, voiceOf_voiceBurst], by rw [hb, embOf_voiceBurst],
    fun h4 => by rw [hb, embDataOf_voiceBurst, hdata h4], ?_, hcall, hrx, hfrag⟩
  exact noSync_of_embCenter hcall.ctrl (hr ▸ hclear) (by rw [hb, centerOf_voiceBurst])

/-- The fragment of position n joins the fragments before it. -/
theorem fragmentsWith_prefix {r : State} (h1 : 1 ≤ n) (h4 : n ≤ 4)
    (hfrag : loadBuf 128 .rxFrag r = prefixOf (embEncode (buildLc s.ctx)) (32 * (n - 1)))
    (hdata : embDataOf (received r) = bits (embEncode (buildLc s.ctx)) (32 * (n - 1)) 32) :
    fragmentsWith r n = prefixOf (embEncode (buildLc s.ctx)) (32 * n) := by
  have hnext : 32 * (n - 1) + 32 = 32 * n := by omega
  rw [fragmentsWith, hfrag, hdata, setBits_prefixOf _ (by omega), hnext]

theorem fragMask_next : ∀ n ≤ 4, 1 ≤ n →
    (BitVec.ofNat 4 (2 ^ (n - 1) - 1) ||| BitVec.twoPow 4 (n - 1)) = BitVec.ofNat 4 (2 ^ n - 1) := by decide

/-- The bursts at B to D store their fragments. -/
theorem callStep_fragment (hvalid : ValidContext s.ctx) (h : InCall s n u) (h1 : 1 ≤ n) (h3 : n ≤ 3)
    (hasm : Reassembling s (n - 1) u) (hclear : ClearOfSync s b) (hloop : LoopedBack .txVoice v u b u') :
    InCall s (n + 1) u' ∧ Reassembling s n u' ∧ resultWord u'.result = 0x38 ∧ loadBuf 216 .voiceOut u' = v := by
  obtain ⟨r, hreceive, hvoice, hemb, hdata, hsync, hcall, hrx, hfrag⟩ :=
    loopedBack_embedded hvalid h h1 (by omega) hclear hloop
  rw [if_pos (by omega)] at hemb
  have hnext : nextPosition r = n := by rw [nextPosition, hrx, hasm.pos, if_pos (by omega)]; omega
  have hrun : r.rx.abort = false := by rw [hrx, hasm.abort]
  obtain ⟨t, hexec, hframe, -, hresult, hfec, hout, -, -, -, -, hpos, -, -, hstored, -, -⟩ :=
    rxEmbeddedTracksThePosition r s.ctx.cc 0#1 (expectedLcss n) 0 n hsync (by rw [hemb, dist_self]) (by decide)
      hnext.symm (by omega)
  obtain rfl := Host.Outcome.next.inj (hexec.symm.trans hreceive)
  obtain ⟨hmask, hkeep, habort, hstore⟩ := hstored ⟨by omega, hrun, rfl⟩
  refine ⟨hcall.after_burst hframe (by decide) (by decide) hfec habort, ⟨hpos, hkeep, ?_, ?_⟩,
    by rw [hresult]; decide, by rw [hout, hvoice]⟩
  · rw [hmask, hrx, hasm.fragMask, fragMask_next n (by omega) h1]
  · rw [hstore, fragmentsWith_prefix h1 (by omega) (by rw [hfrag, hasm.rxFrag]) (hdata (by omega))]

/-- The burst at E completes the embedded LC. -/
theorem callStep_assembles (hvalid : ValidContext s.ctx) (h : InCall s 4 u) (hasm : Reassembling s 3 u)
    (hclear : ClearOfSync s b) (hloop : LoopedBack .txVoice v u b u') :
    InCall s 5 u' ∧ Reassembling s 4 u' ∧ resultWord u'.result = 0x3C ∧ loadBuf 216 .voiceOut u' = v ∧
      loadBuf 72 .rxLc u' = buildLc s.ctx ∧ u'.status.lcEv = true := by
  obtain ⟨r, hreceive, hvoice, hemb, hdata, hsync, hcall, hrx, hfrag⟩ :=
    loopedBack_embedded hvalid h (by decide) (by decide) hclear hloop
  have hpos : r.rx.pos = 3 := BitVec.eq_of_toNat_eq (by rw [hrx, hasm.pos]; rfl)
  have hmask : r.rx.fragMask ||| 8 = 0xF := by rw [hrx, hasm.fragMask]; rfl
  obtain ⟨t, hexec, hframe, hrx', habort, hstore, -, hdecodes, -⟩ :=
    rxAssemblesTheLcAtE r s.ctx.cc 0#1 0 hsync (by rw [hemb]; exact (dist_self _).symm) (by decide) hpos
      (by rw [hrx, hasm.abort]) hmask
  obtain rfl := Host.Outcome.next.inj (hexec.symm.trans hreceive)
  have hprefix := fragmentsWith_prefix (by decide) (by decide) (by rw [hfrag, hasm.rxFrag]) (hdata (by decide))
  have hlc : embDecode (fragmentsWith r 4) = (buildLc s.ctx, outcomeOfChanges 0) := by
    rw [hprefix, prefixOf_self, embDecode_encode]
  obtain ⟨hrecord, hresult, hstatus, hfec, hout⟩ := hdecodes _ 0 hlc
  refine ⟨hcall.after_burst hframe (by decide) (by decide) hfec habort, ⟨by rw [hrx']; rfl, ?_, by rw [hrx']; rfl, ?_⟩,
    by rw [hresult]; decide, by rw [hout, hvoice], hrecord, by rw [hstatus]⟩
  · rw [hrx']
    exact hrx ▸ hasm.abort
  · rw [hstore, hprefix]

/-- The burst at F carries no fragment. -/
theorem callStep_last (hvalid : ValidContext s.ctx) (h : InCall s 5 u) (hasm : Reassembling s 4 u)
    (hclear : ClearOfSync s b) (hloop : LoopedBack .txVoice v u b u') :
    InCall s 6 u' ∧ u'.rx.pos.toNat = 5 ∧ resultWord u'.result = 0x38 ∧ loadBuf 216 .voiceOut u' = v := by
  obtain ⟨r, hreceive, hvoice, hemb, -, hsync, hcall, hrx, -⟩ :=
    loopedBack_embedded hvalid h (by decide) (by decide) hclear hloop
  rw [if_neg (by decide)] at hemb
  have hnext : nextPosition r = 5 := by rw [nextPosition, hrx, hasm.pos]; rfl
  obtain ⟨t, hexec, hframe, -, hresult, hfec, hout, -, -, -, -, hpos, -, -, -, -, hpassed⟩ :=
    rxEmbeddedTracksThePosition r s.ctx.cc 0#1 0#2 0 5 hsync (by rw [hemb, dist_self]) (by decide) hnext.symm (by omega)
  obtain rfl := Host.Outcome.next.inj (hexec.symm.trans hreceive)
  obtain ⟨-, -, habort, -⟩ := hpassed (.inl (by decide))
  exact ⟨hcall.after_burst hframe (by decide) (by decide) hfec habort, hpos, by rw [hresult]; decide,
    by rw [hout, hvoice]⟩

/-- The terminator after the superframe. -/
theorem callStep_terminator (h : InCall s 6 u) (hpos : u.rx.pos.toNat = 5) (hloop : LoopedBack .txTerm v u b u') :
    u'.rx.dt = 2 ∧ u'.fecFailCnt = s.fecFailCnt ∧ u'.abortCnt = s.abortCnt ∧
      loadBuf 72 .rxLc u' = buildLc s.ctx ∧ resultWord u'.result = 0x14 := by
  obtain ⟨t, hsend, rfl, hreceive⟩ := hloop
  have hput := h.storeBuf v (b := .voiceIn) (by decide) (by decide)
  have hlast : (storeBuf .voiceIn v u).rx.pos = 5 := BitVec.eq_of_toNat_eq hpos
  generalize storeBuf .voiceIn v u = q at hput hlast hsend
  obtain rfl := Host.Outcome.next.inj ((exec_txTerm (by rw [hput.tx])).symm.trans hsend)
  obtain ⟨-, -, hrest⟩ := hput.receives_lcBurst (.inr rfl) (received_sentState (lcBurst 2 q) _ q) (.inl hlast) rfl rfl
    hreceive
  exact hrest

/-- The header before the superframe leaves the call where it was. -/
theorem callStep_header (h : InCall s 0 u) (hpos : u.rx.pos = 7) (hloop : LoopedBack .txHdr v u b u') :
    InCall s 0 u' ∧ u'.rx.pos = 7 := by
  obtain ⟨t, hsend, rfl, hreceive⟩ := hloop
  have hput := h.storeBuf v (b := .voiceIn) (by decide) (by decide)
  have hunsync : (storeBuf .voiceIn v u).rx.pos = 7 := hpos
  generalize storeBuf .voiceIn v u = q at hput hunsync hsend
  obtain rfl := Host.Outcome.next.inj ((exec_txHdr (by rw [hput.tx])).symm.trans hsend)
  obtain ⟨hframe, hend, -, hfec, habort, -⟩ :=
    hput.receives_lcBurst (.inl rfl) (received_sentState _ _ _) (.inr hunsync) rfl rfl hreceive
  have hgiven := (hput.sentLc (lcBurst 1 q)).storeBuf (b := .burstIn)
    (loadBuf 264 .burstOut (sentState (lcBurst 1 q) q.tx q)) (by decide) (by decide)
  exact ⟨hgiven.after_burst hframe (by decide) (by decide) (hfec.trans hgiven.fecFailCnt.symm)
    (habort.trans hgiven.abortCnt.symm), hend⟩

end

end Sys2Proof.Machine

namespace Sys2Proof.Claims

open Sys2Proof.Machine

/-- Settles O60: burst by burst, with the call and the reassembly as the invariant between the bursts. -/
theorem callRoundTrip : Obligations.CallRoundTrip := by
  intro s w u b v hvalid hunsync hstart hheader hloop hclear
  obtain rfl := Host.Outcome.next.inj ((exec_callStart hvalid).symm.trans hstart)
  have hfar (n : Nat) (h1 : 1 ≤ n) (h5 : n ≤ 5) : ClearOfSync s (b n) := hclear.imp_right fun h k => h n k h1 h5
  obtain ⟨hcall0, hpos0⟩ : InCall s 0 (u 0) ∧ (u 0).rx.pos = 7 := by
    rcases hheader with h0 | ⟨header, payload, hback⟩
    · rw [h0]
      exact ⟨inCall_startedState s, hunsync⟩
    · exact callStep_header (inCall_startedState s) hunsync hback
  obtain ⟨hcall1, hasm1, hres1, hvoice1⟩ := callStep_first hvalid hcall0 hpos0 (hloop 0 (by decide))
  obtain ⟨hcall2, hasm2, hres2, hvoice2⟩ := callStep_fragment hvalid hcall1 (by decide) (by decide) hasm1
    (hfar 1 (by decide) (by decide)) (hloop 1 (by decide))
  obtain ⟨hcall3, hasm3, hres3, hvoice3⟩ := callStep_fragment hvalid hcall2 (by decide) (by decide) hasm2
    (hfar 2 (by decide) (by decide)) (hloop 2 (by decide))
  obtain ⟨hcall4, hasm4, hres4, hvoice4⟩ := callStep_fragment hvalid hcall3 (by decide) (by decide) hasm3
    (hfar 3 (by decide) (by decide)) (hloop 3 (by decide))
  obtain ⟨hcall5, hasm5, hres5, hvoice5, hlc5, hev5⟩ := callStep_assembles hvalid hcall4 hasm4
    (hfar 4 (by decide) (by decide)) (hloop 4 (by decide))
  obtain ⟨hcall6, hpos6, hres6, hvoice6⟩ := callStep_last hvalid hcall5 hasm5
    (hfar 5 (by decide) (by decide)) (hloop 5 (by decide))
  obtain ⟨hdt7, hfec7, habort7, hlc7, hres7⟩ := callStep_terminator hcall6 hpos6 (hloop 6 (by decide))
  refine ⟨hres1, ⟨hres2, hasm2.fragMask⟩, ⟨hres3, hasm3.fragMask⟩, ⟨hres4, hasm4.fragMask⟩,
    ⟨hres5, hasm5.fragMask, hlc5.trans hcall5.lcAct.symm, hlc5, hev5⟩, hres6, ⟨hres7, hdt7, hlc7⟩, fun n hn => ?_,
    fun n hn => ?_⟩
  · interval_cases n
    exacts [⟨hvoice1, hasm1.pos⟩, ⟨hvoice2, hasm2.pos⟩, ⟨hvoice3, hasm3.pos⟩, ⟨hvoice4, hasm4.pos⟩,
      ⟨hvoice5, hasm5.pos⟩, ⟨hvoice6, hpos6⟩]
  · interval_cases n
    exacts [⟨hcall0.fecFailCnt, hcall0.abortCnt⟩, ⟨hcall1.fecFailCnt, hcall1.abortCnt⟩,
      ⟨hcall2.fecFailCnt, hcall2.abortCnt⟩, ⟨hcall3.fecFailCnt, hcall3.abortCnt⟩,
      ⟨hcall4.fecFailCnt, hcall4.abortCnt⟩, ⟨hcall5.fecFailCnt, hcall5.abortCnt⟩,
      ⟨hcall6.fecFailCnt, hcall6.abortCnt⟩, ⟨hfec7, habort7⟩]

end Sys2Proof.Claims
end
